-- ==== Sys2Proof/Word.lean ====
section
/-! DEFINITION. The word types of the block: every register and every bus access is 32 bits wide (R6 REG_W, R21), a
byte offset in the register window is 8 bits (R51: offsets 0x00 to 0xFF), an operand or result pair is 64 bits
(R6 DATA_W, R30, R31). -/

namespace Sys2Proof

/-- A register value or a command word (R21, R70). -/
abbrev Word := BitVec 32

/-- A byte, for the lane view a host may take of a register (R57). -/
abbrev Byte := BitVec 8

/-- A byte offset in the register window, 0x00 to 0xFF (R51). Offsets above 0xFF do not reach the block (R52). -/
abbrev Offset := BitVec 8

/-- A register pair: DATA_HI:DATA_LO (R30) or OUT_HI:OUT_LO (R31). -/
abbrev Pair := BitVec 64

end Sys2Proof
end

