-- ==== Sys2Proof/Syntax.lean ====
section
/-! DEFINITION. The commands of the block (30_encoding.md R71, opcode_table.json): one constructor per row, and the
names the decoder gives to the words that select no row (R74). -/

namespace Sys2Proof

/-- A command. The length operand is the LEN field of R72 as a number of bits; `WellFormed` says which lengths the
7-bit field holds. Every other operand is an implicit register (R72). -/
inductive Instr where
  /-- SETGEN: configure the generator (R90). -/
  | setgen
  /-- ENCODE n: compute the checksum of an n-bit payload and build the frame (R120). -/
  | encode (len : Nat)
  /-- VERIFY n: check an n-bit frame (R140). -/
  | verify (len : Nat)
  deriving DecidableEq, Repr

/-- Why a command word is ILLEGAL (the three cases of R74). The names are the model's; the block reports all of them
as ILLEGAL_CMD (R164; log 19). -/
inductive IllegalWord where
  /-- A bit of Z0 ([7:4]) or Z1 ([31:15]) is nonzero. -/
  | reservedBits
  /-- OPC is SETGEN's and the LEN field is nonzero. -/
  | setgenLength
  /-- OPC is 0x0 or 0x4 to 0xF. -/
  | unknownOpcode
  deriving DecidableEq, Repr

end Sys2Proof
end

