-- ==== Sys2Proof/WellFormed.lean ====
section
/-! DEFINITION. Which commands have a command word: the LEN field has 7 bits, so a length is 0 to 127 (R72, R76). Whether
a length is in a command's legal range is decided at execution, not here (R72). -/

namespace Sys2Proof

/-- R72: the length fits the 7-bit LEN field ("Every value 0 to 127 decodes"). -/
def lenFits (n : Nat) : Bool := n < 128

/-- A command that a 32-bit command word can hold. -/
def Instr.wellFormed : Instr → Bool
  | .setgen => true
  | .encode n => lenFits n
  | .verify n => lenFits n

/-- The Prop form of `Instr.wellFormed`. -/
abbrev WellFormed (i : Instr) : Prop := i.wellFormed = true

end Sys2Proof
end

