-- ==== Sys2Proof/Decode.lean ====
section
/-! DEFINITION. The command decoder, total on every 32-bit word (R73), the names it rejects words by (R74), and the
encoder of R76. -/

namespace Sys2Proof

/-- One row of the opcode map (R71): a word w selects it when `(w and mask) = pattern`. -/
structure TableRow where
  /-- The table's "match" word. -/
  pattern : Word
  /-- The bits that are compared. -/
  mask : Word
  deriving DecidableEq, Repr

/-- R71: "A word w selects a row when (w and mask) = match". -/
def TableRow.selects (row : TableRow) (w : Word) : Bool := w &&& row.mask == row.pattern

/-- R71, row SETGEN. -/
def setgenRow : TableRow := { pattern := 0x00000001#32, mask := 0xFFFFFFFF#32 }

/-- R71, row ENCODE. -/
def encodeRow : TableRow := { pattern := 0x00000002#32, mask := 0xFFFF80FF#32 }

/-- R71, row VERIFY. -/
def verifyRow : TableRow := { pattern := 0x00000003#32, mask := 0xFFFF80FF#32 }

/-- R70: field OPC, bits [3:0]. -/
def opcField (w : Word) : BitVec 4 := w.extractLsb' 0 4

/-- R70: reserved field Z0, bits [7:4]. -/
def z0Field (w : Word) : BitVec 4 := w.extractLsb' 4 4

/-- R70, R72: field LEN, bits [14:8], "an unsigned 7-bit number (0 to 127), zero-extended, not scaled, not shifted". -/
def lenField (w : Word) : BitVec 7 := w.extractLsb' 8 7

/-- R70: reserved field Z1, bits [31:15]. -/
def z1Field (w : Word) : BitVec 17 := w.extractLsb' 15 17

/-- The name under which a word that selects no row is rejected (the cases of R74, in a fixed order). -/
def illegalReason (w : Word) : IllegalWord :=
  if z0Field w ≠ 0 ∨ z1Field w ≠ 0 then .reservedBits
  else if opcField w = 1 then .setgenLength
  else .unknownOpcode

/-- R73: `Decode`. -/
def decode (w : Word) : Except IllegalWord Instr :=
  if setgenRow.selects w then .ok .setgen
  else if encodeRow.selects w then .ok (.encode (lenField w).toNat)
  else if verifyRow.selects w then .ok (.verify (lenField w).toNat)
  else .error (illegalReason w)

/-- R76: the command word of a command. -/
def encode : Instr → Word
  | .setgen => 0x00000001#32
  | .encode n => 0x00000002#32 ||| (BitVec.ofNat 32 n <<< 8)
  | .verify n => 0x00000003#32 ||| (BitVec.ofNat 32 n <<< 8)

/-- What the decoder reads from an instruction of `nbits` bits numbered as the opcode table numbers them. A command is
one 32-bit word and has one length (R75): the bits above `nbits` are 0, and a value that does not fit 32 bits is no
command word. -/
def decodeTableWord (nbits w : Nat) : Option Instr :=
  if w % 2 ^ nbits < 2 ^ 32 then (decode (BitVec.ofNat 32 (w % 2 ^ nbits))).toOption else none

end Sys2Proof
end

