-- ==== Sys2Proof/Machine/Divider.lean ====
section
/-! DEFINITION. The polynomial divider (41_divider.md), on unbounded unsigned integers as R7 reads the pseudocode. -/

namespace Sys2Proof.Machine

/-- "R := (R << 1) xor D[i]": shift in dividend bit i (R100). -/
def shiftIn (D i R : Nat) : Nat := R <<< 1 ^^^ (D.testBit i).toNat

/-- "if R[r] = 1 then R := R xor G" (R100). -/
def reduce (G r R : Nat) : Nat := if R.testBit r then R ^^^ G else R

/-- The loop of R100 for i from `k - 1` down to 0, from the register value R. -/
def divideFrom (D G r : Nat) : Nat → Nat → Nat
  | 0, R => R
  | i + 1, R => divideFrom D G r i (reduce G r (shiftIn D i R))

/-- R100 `pmod(D, n, G, r)`: the remainder of the dividend string (D, n) divided by the generator G of degree r. The
spec gives it for `n ≤ 64`, `D < 2^n`, `1 ≤ r ≤ 31`, `2^r ≤ G < 2^(r+1)`; outside that range the function is the same
loop (DESIGN CHOICE, log 14). -/
def pmod (D n G r : Nat) : Nat := divideFrom D G r n 0

/-- The loop of R101: k bits are still to be shifted in. -/
def seededFrom (D G r : Nat) : Nat → Nat → Nat
  | 0, R => reduce G r R
  | k + 1, R => seededFrom D G r k (shiftIn D k (reduce G r R))

/-- R101 `pmod_src(D, n, G, r)`: the source's own form, seeded with the leading r + 1 bits. -/
def pmodSrc (D n G r : Nat) : Nat :=
  if n ≤ r then D else seededFrom D G r (n - r - 1) (D >>> (n - r - 1) % 2 ^ (r + 1))

end Sys2Proof.Machine
end

