-- ==== Sys2Proof/Config.lean ====
section
/-! DEFINITION. The parameters of 00_scope.md R6, fixed for the block, and the values the spec leaves open. LATENCY and
NHOST have no constant here: the list of pending turns in State ranges over every latency and every host (logs 1 and 23). -/

namespace Sys2Proof.Config

/-- R6 GEN_W: width of a generator value in bits. -/
def genW : Nat := 32

/-- R6 R_MIN: least degree. -/
def rMin : Nat := 1

/-- R6 R_MAX: greatest degree, GEN_W - 1. -/
def rMax : Nat := 31

/-- R6 PLEN_MIN: least payload length for ENCODE. -/
def plenMin : Nat := 1

/-- R6 PLEN_MAX: greatest payload length for ENCODE. -/
def plenMax : Nat := 32

/-- R6 FLEN_MAX: greatest frame length for VERIFY. -/
def flenMax : Nat := 64

/-- R6 WINDOW: size of the register window in bytes. -/
def window : Nat := 0x100

/-- R22: the constant word PARAM reads as. -/
def paramWord : Word := 0x00402020#32

/-- R6, R183 MAX_ATTEMPTS: the sender's bound on transmissions of one payload. UNVERIFIED: the source's literal,
which the spec calls unaudited (log 22). -/
def maxAttempts : Nat := 3

/-- R51 CRC_BASE: the host address of the window, left to the platform (OPEN). An opaque constant: nothing can be
proved of its value (log 13). -/
opaque crcBase : Nat

/-- ANY32 of R53 and R201: the value a result register reads as while BUSY = 1, "an unconstrained 32-bit draw per read,
not stable between reads". A free value: the k-th draw of a run is `anyRead k`, of which nothing can be proved
(log 5). -/
opaque anyRead : Nat → Word

end Sys2Proof.Config
end

