-- ==== Sys2Proof/Machine/State.lean ====
section
/-! DEFINITION. The state of the block (10_state.md), the reasons a step or an access can stop, and the state after
reset (R46). Everything here is plain data. -/

namespace Sys2Proof.Machine

/-- The fault of an access. -/
inductive Fault where
  /-- R55 `BusError(off, size)`: raised by the bus port for the host that presents an access that is not admitted (size
  other than 4, or an offset that is no multiple of 4). It is a fault of that host and reaches it as `Reply.fault`;
  "the block itself continues", so no step of the machine ends with it. Safe: the access changes no register (log 3). -/
  | busError (off : Offset) (size : Nat)
  deriving DecidableEq, Repr

/-- Why a step has no meaning. -/
inductive Refusal where
  /-- A command that has no meaning yet, by its mnemonic: raised by `exec`'s refused arms. Safe. Every command of the
  opcode table has its meaning, so no arm raises it. -/
  | notModelled (mnemonic : String)
  deriving DecidableEq, Repr

/-- STATUS.RESULT (R24): the source's ResultCode, and "no verdict". -/
inductive ResultCode where
  /-- NONE, 0b00. -/
  | noResult
  /-- DATA_SUCCESS, 0b01. -/
  | dataSuccess
  /-- DATA_ERROR, 0b10. -/
  | dataError
  /-- CODE_ERROR, 0b11. -/
  | codeError
  deriving DecidableEq, Repr

/-- STATUS.ERR (R25, R160). Values 6 to 15 are "reserved and never produced": they have no constructor. -/
inductive ErrCode where
  /-- 0 NONE. -/
  | noError
  /-- 1 ILLEGAL_CMD. -/
  | illegalCmd
  /-- 2 GEN_INVALID. -/
  | genInvalid
  /-- 3 LEN_INVALID. -/
  | lenInvalid
  /-- 4 NO_CODE. -/
  | noCode
  /-- 5 MALFORMED_FRAME. -/
  | malformedFrame
  deriving DecidableEq, Repr

/-- The stored fields of STATUS (R23). BUSY is not stored: it is 1 exactly when a job is in flight (R40; log 8). -/
structure Status where
  /-- CODE_VALID, bit 1. -/
  codeValid : Bool
  /-- OK, bit 2. -/
  ok : Bool
  /-- RESULT, bits 5:4. -/
  result : ResultCode
  /-- ERR, bits 11:8. -/
  err : ErrCode
  /-- OVR, bit 16, sticky. -/
  ovr : Bool
  deriving DecidableEq, Repr

/-- The operation of a job (R40: ENC or VER). -/
inductive JobOp where
  | enc
  | ver
  deriving DecidableEq, Repr

/-- The engine job (R40): the snapshot of an in-flight ENCODE or VERIFY. -/
structure Job where
  /-- ENC or VER. -/
  op : JobOp
  /-- "n the dividend source length (PLEN for ENC, FLEN for VER)". -/
  n : Nat
  /-- "D = DATA[n-1:0] at issue". -/
  d : Pair
  /-- "G = GEN at issue". -/
  g : Word
  /-- "r = GEN_DEG at issue". -/
  r : BitVec 5
  deriving DecidableEq, Repr

/-- The thirteen registers of the window (R20). -/
inductive Reg where
  | param | status | cmd | genIn | gen | genDeg | dataLo | dataHi | outLo | outHi | outLen | chk | rem
  deriving DecidableEq, Repr

/-- The direction of an access, with the written value (R50: dir, wdata). -/
inductive Dir where
  | read
  | write (v : Word)
  deriving DecidableEq, Repr

/-- An access a host presents on the register port (R50): byte offset, size in bytes, direction. -/
structure Access where
  off : Offset
  size : Nat
  dir : Dir
  deriving DecidableEq, Repr

/-- What the port answers to an access (R50): a read value, an acknowledged write, or a bus error, which is a fault of
the issuing host (R55). -/
inductive Reply where
  | data (v : Word)
  | written
  | fault (f : Fault)
  deriving DecidableEq, Repr

/-- One turn of an agent (R10). -/
inductive Turn where
  /-- Host(k) presents an access. -/
  | access (host : Nat) (a : Access)
  /-- The engine may take its step (R196). -/
  | engine
  /-- Reset (R190): one clock edge with `rst` asserted, and the access a host presents meanwhile, if any. -/
  | reset (presented : Option (Nat × Access))
  deriving DecidableEq, Repr

/-- The state: the registers of R20 that hold something, the job of R40, and three fields of the model's own
(`turns`, `reply`, `draws`). PARAM is a constant and CMD keeps nothing (R22, R29; log 9). -/
structure State where
  /-- STATUS (R23). -/
  status : Status
  /-- GEN_IN (R28). -/
  genIn : Word
  /-- GEN (R26). -/
  gen : Word
  /-- GEN_DEG, bits 4:0; bits 31:5 read 0 (R27). -/
  genDeg : BitVec 5
  /-- DATA_LO (R30). -/
  dataLo : Word
  /-- DATA_HI (R30). -/
  dataHi : Word
  /-- OUT_LO (R31). -/
  outLo : Word
  /-- OUT_HI (R31). -/
  outHi : Word
  /-- OUT_LEN, bits 6:0; bits 31:7 read 0 (R32). -/
  outLen : BitVec 7
  /-- CHK (R33). -/
  chk : Word
  /-- REM (R34). -/
  rem : Word
  /-- JOB (R40); `none` is the spec's NONE. -/
  job : Option Job
  /-- The model's own: the agents' pending turns, the next one first (R10, R60, R197; log 1). -/
  turns : List Turn
  /-- The model's own: what the port answered in the step just taken, and to which host (R50; log 4). -/
  reply : Option (Nat × Reply)
  /-- The model's own: how many ANY32 values have been drawn (R53, R201; log 5). -/
  draws : Nat
  deriving DecidableEq, Repr

/-- R46: STATUS after reset is 0. -/
def Status.reset : Status :=
  { codeValid := false, ok := false, result := .noResult, err := .noError, ovr := false }

/-- R46: the state after reset. Nothing is pending at the port (logs 1, 4, 5: DESIGN CHOICE for the three fields of the
model's own). -/
def State.reset : State :=
  { status := Status.reset
    genIn := 0
    gen := 0
    genDeg := 0
    dataLo := 0
    dataHi := 0
    outLo := 0
    outHi := 0
    outLen := 0
    chk := 0
    rem := 0
    job := none
    turns := []
    reply := none
    draws := 0 }

end Sys2Proof.Machine
end

