-- ==== Sys2Proof/Machine/Flags.lean ====
section
/-! DEFINITION. The flags of STATUS: their codes and places in the word (R23 to R25), and everything that sets or clears
one (R43). -/

namespace Sys2Proof.Machine

/-- R40: "STATUS.BUSY = 1 if and only if JOB ≠ NONE". -/
def busy (s : State) : Bool := s.job.isSome

/-- R24: the two bits of a RESULT value. -/
def ResultCode.code : ResultCode → BitVec 2
  | .noResult => 0b00
  | .dataSuccess => 0b01
  | .dataError => 0b10
  | .codeError => 0b11

/-- R25: the four bits of an ERR value. -/
def ErrCode.code : ErrCode → BitVec 4
  | .noError => 0
  | .illegalCmd => 1
  | .genInvalid => 2
  | .lenInvalid => 3
  | .noCode => 4
  | .malformedFrame => 5

/-- R23: the word STATUS reads as, from bit 31 down; the reserved bits read 0 (R21). -/
def statusWord (s : State) : Word :=
  0#15 ++ BitVec.ofBool s.status.ovr ++ 0#4 ++ s.status.err.code ++ 0#2 ++ s.status.result.code ++ 0#1
    ++ BitVec.ofBool s.status.ok ++ BitVec.ofBool s.status.codeValid ++ BitVec.ofBool (busy s)

/-- R200: a write ignored because BUSY is 1 sets OVR and changes nothing else. -/
def setOvr (s : State) : State := { s with status := { s.status with ovr := true } }

/-- R23: the write-1-to-clear of OVR. -/
def clearOvr (s : State) : State := { s with status := { s.status with ovr := false } }

/-- R163 `IssueClear()`: OK ← 0, RESULT ← NONE, ERR ← NONE; OVR and CODE_VALID are kept. -/
def issueClear (s : State) : State :=
  { s with status := { s.status with ok := false, result := .noResult, err := .noError } }

/-- `x[STATUS].ERR <- e` (R161). -/
def setErr (e : ErrCode) (s : State) : State := { s with status := { s.status with err := e } }

/-- `x[STATUS].RESULT <- c` (R142, R143). -/
def setResult (c : ResultCode) (s : State) : State := { s with status := { s.status with result := c } }

/-- R146: the verdict on a remainder m: OK and RESULT. -/
def setVerdict (m : Nat) (s : State) : State :=
  if m = 0 then { s with status := { s.status with ok := true, result := .dataSuccess } }
  else { s with status := { s.status with ok := false, result := .dataError } }

end Sys2Proof.Machine
end

