-- ==== Sys2Proof/Machine/BitString.lean ====
section
/-! DEFINITION. Values and bit strings (00_scope.md R7, R8): the first bit of a string is the most significant. -/

namespace Sys2Proof.Machine

/-- R7 `bitlen`: the number of bits of v without leading zeros, 0 for 0. -/
def bitlen (v : Nat) : Nat := if v = 0 then 0 else Nat.log2 v + 1

/-- R8 `bits(v, n)`: exactly n characters, leading zeros kept, first character the most significant. -/
def bits (v : Nat) : Nat → List Bool
  | 0 => []
  | n + 1 => v.testBit n :: bits v n

/-- R8 `val(s)`: the value of a string. -/
def val (s : List Bool) : Nat := s.foldl (fun a b => 2 * a + b.toNat) 0

/-- R8 concatenation of pairs (value, length): `(a, na) ‖ (b, nb) = ((a << nb) xor b, na + nb)`. -/
def concatPair (a b : Nat × Nat) : Nat × Nat := (a.1 <<< b.2 ^^^ b.1, a.2 + b.2)

end Sys2Proof.Machine
end

