-- ==== Sys2Proof/Machine/Operands.lean ====
section
/-! DEFINITION. Operands and register values: the operand pair and the bit string a command takes from it (R30), the
result pair (R31), and which register stands at which offset (R20). -/

namespace Sys2Proof.Machine

/-- R30: `DATA = (x[DATA_HI] << 32) xor x[DATA_LO]`. -/
def dataPair (s : State) : Pair := s.dataHi ++ s.dataLo

/-- R30: the value DATA[n-1:0] of the bit string of length n; "DATA bits n and above are ignored". -/
def operand (s : State) (n : Nat) : Pair := BitVec.ofNat 64 ((dataPair s).toNat % 2 ^ n)

/-- R31: `OUT = (x[OUT_HI] << 32) xor x[OUT_LO]`. -/
def outPair (s : State) : Pair := s.outHi ++ s.outLo

/-- R31, R32, R181: the result bit string `bits(OUT, OUT_LEN)`. -/
def outString (s : State) : List Bool := bits (outPair s).toNat s.outLen.toNat

/-- `v[31:0]` (R124, R147). -/
def loWord (v : Nat) : Word := BitVec.ofNat 32 v

/-- `v[63:32]` (R124, R147). -/
def hiWord (v : Nat) : Word := BitVec.ofNat 32 (v >>> 32)

/-- R20: the offset of a register. -/
def Reg.offset : Reg → Offset
  | .param => 0x00
  | .status => 0x04
  | .cmd => 0x08
  | .genIn => 0x0C
  | .gen => 0x10
  | .genDeg => 0x14
  | .dataLo => 0x18
  | .dataHi => 0x1C
  | .outLo => 0x20
  | .outHi => 0x24
  | .outLen => 0x28
  | .chk => 0x2C
  | .rem => 0x30

/-- The registers of R20 in the order of their offsets. -/
def allRegs : List Reg :=
  [.param, .status, .cmd, .genIn, .gen, .genDeg, .dataLo, .dataHi, .outLo, .outHi, .outLen, .chk, .rem]

/-- R20, R54: the register at an offset, if there is one. -/
def regAt (off : Offset) : Option Reg := allRegs.find? fun r => r.offset == off

/-- R53, R201: the five result registers, whose reads are unconstrained while BUSY = 1. -/
def Reg.isResult : Reg → Bool
  | .outLo | .outHi | .outLen | .chk | .rem => true
  | .param | .status | .cmd | .genIn | .gen | .genDeg | .dataLo | .dataHi => false

end Sys2Proof.Machine
end

