-- ==== Sys2Proof/Machine/Ops.lean ====
section
/-! DEFINITION. The operations the commands, the engine and the bus port share: issuing a command (R162, R163), raising a
command error (R161), starting and ending a job (R40, R122, R144), the result registers, the reply of the port, and
the value a register reads as (R53). There is no trap entry and no return from one (R171). -/

namespace Sys2Proof.Machine

/-- R161 `raise CmdError(code)`: "x[STATUS].ERR <- code, and nothing further of that command happens". The one operation
by which a command is refused; no state is saved and no control is transferred. -/
def raiseCmdError (code : ErrCode) (s : State) : State := setErr code s

/-- R162: what every CMD write does around a command: ignored with OVR while BUSY, else the issue-time clearing of R163
and then the command's own part. -/
def issue (s : State) (command : State → State) : State :=
  if busy s then setOvr s else command (issueClear s)

/-- R122, R144: the job of an issue: the snapshot of DATA[n-1:0], GEN and GEN_DEG. BUSY is 1 from here on (R40). -/
def startJob (op : JobOp) (n : Nat) (s : State) : State :=
  { s with job := some { op := op, n := n, d := operand s n, g := s.gen, r := s.genDeg } }

/-- `JOB <- NONE`, `x[STATUS].BUSY <- 0` (R124, R147). -/
def endJob (s : State) : State := { s with job := none }

/-- The five result registers in one step (R58, R124, R147): the bit string `(out, len)`, CHK and REM. -/
def writeResults (out len chk rem : Nat) (s : State) : State :=
  { s with
    outLo := loWord out
    outHi := hiWord out
    outLen := BitVec.ofNat 7 len
    chk := BitVec.ofNat 32 chk
    rem := BitVec.ofNat 32 rem }

/-- R26, R27: GEN and GEN_DEG are written together, and CODE_VALID with them (R91). -/
def installGenerator (v : Word) (s : State) : State :=
  { s with
    gen := v
    genDeg := BitVec.ofNat 5 (bitlen v.toNat - 1)
    status := { s.status with codeValid := true } }

/-- The port answers host h (R50). -/
def answer (h : Nat) (r : Reply) (s : State) : State := { s with reply := some (h, r) }

/-- R53: the value a register reads as (for a result register, while BUSY = 0). -/
def regValue (s : State) : Reg → Word
  | .param => Config.paramWord
  | .status => statusWord s
  | .cmd => 0
  | .genIn => s.genIn
  | .gen => s.gen
  | .genDeg => s.genDeg.setWidth 32
  | .dataLo => s.dataLo
  | .dataHi => s.dataHi
  | .outLo => s.outLo
  | .outHi => s.outHi
  | .outLen => s.outLen.setWidth 32
  | .chk => s.chk
  | .rem => s.rem

/-- A draw of ANY32 (R53, R201): the free value, and the counter moved on, so that the next draw is another one. -/
def drawAny (s : State) : Word × State := (Config.anyRead s.draws, { s with draws := s.draws + 1 })

end Sys2Proof.Machine
end

