-- ==== Sys2Proof/Machine/Encoder.lean ====
section
/-! DEFINITION. ENCODE (42_encoder.md R120 to R129): the issue, and the completion the engine performs later. -/

namespace Sys2Proof.Machine

/-- R121 (the checks, in their order) and R122 (the issue). -/
def encodeCommand (n : Nat) (s : State) : State :=
  if n < Config.plenMin ∨ Config.plenMax < n then raiseCmdError .lenInvalid s
  else if s.status.codeValid = false then raiseCmdError .noCode s
  else startJob .enc n s

/-- ENCODE n (R120), at its issue. -/
def execEncode (n : Nat) (s : State) : Host.Outcome State Fault Refusal := .next (issue s (encodeCommand n))

/-- R123, R124: the checksum of the payload (P, n): the remainder of the augmented dividend `(P << r, n + r)`. -/
def checksum (P n G r : Nat) : Nat := pmod (P <<< r) (n + r) G r

/-- R124: the frame value, "payload bits followed by the r checksum bits". -/
def frame (P n G r : Nat) : Nat := P <<< r ^^^ checksum P n G r

/-- R124: completion of an ENCODE job, from the job's snapshot only (R41). OK, RESULT and ERR are not written. -/
def completeEncode (j : Job) (s : State) : State :=
  let c := checksum j.d.toNat j.n j.g.toNat j.r.toNat
  endJob (writeResults (frame j.d.toNat j.n j.g.toNat j.r.toNat) (j.n + j.r.toNat) c c s)

end Sys2Proof.Machine
end

