-- ==== Sys2Proof/Machine/Generator.lean ====
section
/-! DEFINITION. SETGEN (40_generator.md R90 to R96). -/

namespace Sys2Proof.Machine

/-- R91, after the BUSY test and the clearing of R163: refuse 0 and 1 (R92), else install the generator. -/
def setgenCommand (s : State) : State :=
  if s.genIn = 0 ∨ s.genIn = 1 then raiseCmdError .genInvalid s else installGenerator s.genIn s

/-- SETGEN (R90): completes within the CMD write that issues it (R94). -/
def execSetgen (s : State) : Host.Outcome State Fault Refusal := .next (issue s setgenCommand)

end Sys2Proof.Machine
end

