-- ==== Sys2Proof/Machine/Verifier.lean ====
section
/-! DEFINITION. VERIFY (43_verifier.md R140 to R152): the issue, and the completion the engine performs later. -/

namespace Sys2Proof.Machine

/-- R141, R142, R143 (the checks, in their order) and R144 (the issue). -/
def verifyCommand (n : Nat) (s : State) : State :=
  if Config.flenMax < n then raiseCmdError .lenInvalid s
  else if s.status.codeValid = false then raiseCmdError .noCode (setResult .codeError s)
  else if n < s.genDeg.toNat then raiseCmdError .malformedFrame (setResult .dataError s)
  else startJob .ver n s

/-- VERIFY n (R140), at its issue. -/
def execVerify (n : Nat) (s : State) : Host.Outcome State Fault Refusal := .next (issue s (verifyCommand n))

/-- R147: the trailing r bits of a frame, F[r-1:0]. -/
def checksumSegment (F r : Nat) : Nat := F % 2 ^ r

/-- R147: the rest of a frame, F >> r. -/
def payloadSegment (F r : Nat) : Nat := F >>> r

/-- R146 and R147: completion of a VERIFY job, from the job's snapshot only (R41): the whole frame is the dividend
(R145), the remainder gives the verdict, and the split is written whatever the verdict. -/
def completeVerify (j : Job) (s : State) : State :=
  let m := pmod j.d.toNat j.n j.g.toNat j.r.toNat
  endJob (setVerdict m
    (writeResults (payloadSegment j.d.toNat j.r.toNat) (j.n - j.r.toNat) (checksumSegment j.d.toNat j.r.toNat) m s))

end Sys2Proof.Machine
end

