-- ==== Sys2Proof/Machine/Dispatch.lean ====
section
/-! DEFINITION. One arm per command: what a CMD write of the command's word does (R162). -/

namespace Sys2Proof.Machine

def exec (i : Instr) (s : State) : Host.Outcome State Fault Refusal :=
  match i with
  | .setgen => Sys2Proof.Machine.execSetgen s
  | .encode n => Sys2Proof.Machine.execEncode n s
  | .verify n => Sys2Proof.Machine.execVerify n s

end Sys2Proof.Machine
end

