-- ==== Sys2Proof/Machine/Bus.lean ====
section
/-! DEFINITION. The bus port (20_memory.md): admission, reads, writes, the CMD write, and the view a host's platform
takes of the window (base address and byte lanes). -/

namespace Sys2Proof.Machine

/-- R52: `size = 4`, `off mod 4 = 0` and `0 ≤ off ≤ 0xFC` (the last follows for an 8-bit offset). -/
def Access.admitted (a : Access) : Bool := a.size == 4 && a.off.toNat % 4 == 0

/-- R53 `MemRead(off, 4)`, for an admitted offset: the value, and the state, which differs only in the counter of draws
and only where ANY32 is drawn. -/
def memRead (off : Offset) (s : State) : Word × State :=
  match regAt off with
  | none => (0, s)
  | some r => if r.isResult && busy s then drawAny s else (regValue s r, s)

/-- R164: a CMD word that decodes to ILLEGAL. -/
def execIllegal (s : State) : Host.Outcome State Fault Refusal := .next (issue s (raiseCmdError .illegalCmd))

/-- R162 `CommandWrite(w)`. The BUSY test and the clearing of R163 are in `issue`, which every arm goes through. -/
def commandWrite (w : Word) (s : State) : Host.Outcome State Fault Refusal :=
  match decode w with
  | .ok i => exec i s
  | .error _ => execIllegal s

/-- R56, R200: a write of GEN_IN, DATA_LO or DATA_HI: ignored with OVR while BUSY, else done. -/
def guardedWrite (write : State → State) (s : State) : State := if busy s then setOvr s else write s

/-- R56 `MemWrite(off, 4, v)`, for an admitted offset. -/
def memWrite (off : Offset) (v : Word) (s : State) : Host.Outcome State Fault Refusal :=
  match regAt off with
  | some .status => .next (if v.getLsbD 16 then clearOvr s else s)
  | some .cmd => commandWrite v s
  | some .genIn => .next (guardedWrite (fun t => { t with genIn := v }) s)
  | some .dataLo => .next (guardedWrite (fun t => { t with dataLo := v }) s)
  | some .dataHi => .next (guardedWrite (fun t => { t with dataHi := v }) s)
  | some .param | some .gen | some .genDeg | some .outLo | some .outHi | some .outLen | some .chk | some .rem => .next s
  | none => .next s

/-- One access of host h (R52 to R56). An access that is not admitted is answered with a bus error and changes no
register (R55). -/
def performAccess (h : Nat) (a : Access) (s : State) : Host.Outcome State Fault Refusal :=
  if a.admitted then
    match a.dir with
    | .read => .next (answer h (.data (memRead a.off s).1) (memRead a.off s).2)
    | .write v => memWrite a.off v (answer h .written s)
  else .next (answer h (.fault (.busError a.off a.size)) s)

/-- R51, R57: the host address of byte k of the register at `off`. -/
def hostAddress (off : Offset) (k : Nat) : Nat := Config.crcBase + off.toNat + k

/-- R51, R52: the window offset of a host address; an address outside the window does not reach the block. -/
def windowOffset (addr : Nat) : Option Offset :=
  if Config.crcBase ≤ addr ∧ addr < Config.crcBase + Config.window then some (BitVec.ofNat 8 (addr - Config.crcBase))
  else none

/-- R57: the byte in lane k of a register value, bits [8k+7:8k]. PRESUMED (the spec takes it from general knowledge;
log 13); no behaviour of the block depends on it. -/
def laneByte (v : Word) (k : Nat) : Byte := v.extractLsb' (8 * k) 8

/-- R57: the register value a host forms from its four lanes. -/
def wordOfLanes (b0 b1 b2 b3 : Byte) : Word := b3 ++ b2 ++ b1 ++ b0

end Sys2Proof.Machine
end

