-- ==== Sys2Proof/Machine/Engine.lean ====
section
/-! DEFINITION. The engine step (70_reset_and_hazards.md R196) and the reset event (R190). -/

namespace Sys2Proof.Machine

/-- R196: the completion of the job in flight in one atomic state change. "The engine has a step exactly when
JOB ≠ NONE": without a job its turn changes nothing. -/
def engineStep (s : State) : State :=
  match s.job with
  | none => s
  | some j =>
    match j.op with
    | .enc => completeEncode j s
    | .ver => completeVerify j s

/-- R190: what a host that presents an access while `rst` is asserted gets: the access is not performed, "a write has no
effect and a read returns 0, with no bus error". -/
def replyInReset : Dir → Reply
  | .read => .data 0
  | .write _ => .written

/-- R190: reset takes every register to its reset value and JOB to NONE, whatever the state was. The turns still pending
and the counter of draws are no state of the block and stay (log 7). -/
def resetEvent (presented : Option (Nat × Access)) (s : State) : State :=
  { State.reset with
    turns := s.turns
    draws := s.draws
    reply := presented.map fun p => (p.1, replyInReset p.2.dir) }

end Sys2Proof.Machine
end

