-- ==== Sys2Proof/Machine/Turn.lean ====
section
/-! DEFINITION. The turn of one agent (00_scope.md R10), and the turn that brings a command to the block. -/

namespace Sys2Proof.Machine

/-- R10: a host's turn is one access, the engine's is one completion, and reset is an event of its own. -/
def takeTurn (t : Turn) (s : State) : Host.Outcome State Fault Refusal :=
  match t with
  | .access h a => performAccess h a s
  | .engine => .next (engineStep s)
  | .reset presented => .next (resetEvent presented s)

/-- What a step does when no turn is pending: the engine completes the job in flight (R197: "a job that is not abandoned
by reset completes after finitely many steps"), and a block without a job is idle (log 2). -/
def quietTurn (s : State) : Host.Outcome State Fault Refusal := .next (engineStep s)

/-- The access that writes a command word to CMD (R29). -/
def cmdAccess (w : Word) : Access := { off := Reg.cmd.offset, size := 4, dir := .write w }

/-- The turn in which host 1 writes a command word of the opcode table's numbering to CMD (R45: a command "is taken from
the value written to CMD"; log 6). -/
def cmdTurn (nbits w : Nat) : Turn := .access 1 (cmdAccess (BitVec.ofNat 32 (w % 2 ^ nbits)))

end Sys2Proof.Machine
end

