-- ==== Sys2Proof/Machine/Step.lean ====
section
/-! DEFINITION. One step of the machine: the turn of one agent (00_scope.md R10). The list `turns` says who moves next;
every list is a schedule the spec admits (log 1). -/

namespace Sys2Proof.Machine

/-- One step: the first pending turn is taken, and the port shows only the answer of this step. -/
def step (s : State) : Host.Outcome State Fault Refusal :=
  match s.turns with
  | [] => quietTurn { s with reply := none }
  | t :: rest => takeTurn t { s with turns := rest, reply := none }

/-- The block fetches nothing (R45, R62): a command comes to run because a host writes its word to CMD. So the word is
placed as the next pending turn, a CMD write of host 1 (log 6). -/
def State.withFetchWord (s : State) (nbits w : Nat) : State := { s with turns := cmdTurn nbits w :: s.turns }

end Sys2Proof.Machine
end

