-- ==== Sys2Proof/Machine/HostEnv.lean ====
section
/-! DEFINITION. The software around the block: the host notation of 30_encoding.md R76 and R77, and the sender and the
receiver of 60_exceptions.md section 6 (R180 to R184). "They bind a model of the host, not the block": nothing here is
in State, and `step` uses none of it. -/

namespace Sys2Proof.Machine

/-- A value a host program writes or compares with (R76): a constant, or a temporary an earlier `RD` has set, as in
`RD OUT_LO -> f` ; `WR DATA_LO, f` (95_test_vectors.md P1). -/
inductive HostVal where
  | const (v : Word)
  | temp (t : Nat)
  deriving DecidableEq, Repr

/-- One operation of a host program (R76). The temporary `t` of `RD off -> t` is named by a number. -/
inductive HostOp where
  /-- `WR off, v`: `MemWrite(off, 4, v)`. -/
  | wr (off : Offset) (v : HostVal)
  /-- `RD off -> t`: `t := MemRead(off, 4)`. -/
  | rd (off : Offset) (t : Nat)
  /-- `POLL off, m, v`: repeat `t := MemRead(off, 4)` until `(t and m) = v`. -/
  | poll (off : Offset) (mask value : HostVal)
  deriving DecidableEq, Repr

/-- An operation with its values looked up. -/
inductive HostAct where
  | wr (off : Offset) (v : Word)
  | rd (off : Offset) (t : Nat)
  | poll (off : Offset) (mask value : Word)
  deriving DecidableEq, Repr

/-- The access an operation presents (R76): every one is a 4-byte access. -/
def HostAct.access : HostAct → Access
  | .wr off v => { off := off, size := 4, dir := .write v }
  | .rd off _ => { off := off, size := 4, dir := .read }
  | .poll off _ _ => { off := off, size := 4, dir := .read }

/-- `WR` of a constant. -/
def wrConst (off : Offset) (v : Word) : HostOp := .wr off (.const v)

/-- R77 `WAIT`. -/
def waitOps : List HostOp := [.poll Reg.status.offset (.const 0x00000001) (.const 0x00000000)]

/-- R77 `CFG g`. -/
def cfgOps (g : HostVal) : List HostOp := [.wr Reg.genIn.offset g, wrConst Reg.cmd.offset (encode .setgen)]

/-- R77 `LOAD v`. -/
def loadOps (v : Pair) : List HostOp :=
  [wrConst Reg.dataLo.offset (v.extractLsb' 0 32), wrConst Reg.dataHi.offset (v.extractLsb' 32 32)]

/-- R77 `ENC v, n`. -/
def encOps (v : Pair) (n : Nat) : List HostOp :=
  loadOps v ++ [wrConst Reg.cmd.offset (encode (.encode n))] ++ waitOps

/-- R77 `VER v, n`. -/
def verOps (v : Pair) (n : Nat) : List HostOp :=
  loadOps v ++ [wrConst Reg.cmd.offset (encode (.verify n))] ++ waitOps

/-- R77 `CLROVR`. -/
def clrovrOps : List HostOp := [wrConst Reg.status.offset 0x00010000]

/-- The state after an outcome; an outcome that is no next state leaves the state (no access of a host has one). -/
def stateAfter (o : Host.Outcome State Fault Refusal) (s : State) : State :=
  match o with
  | .next t => t
  | .fault _ => s
  | .refused _ => s

/-- Why a host program stopped before its end; both are the host's, and the spec does not say how it goes on. -/
inductive HostStop where
  /-- Its access got a bus error (R55; log 25). -/
  | fault (f : Fault)
  /-- Its operation names a temporary that no `RD` has set (log 27). -/
  | unsetTemporary (t : Nat)
  deriving DecidableEq, Repr

/-- A host program on the way: the operations left, the one it is at first, the temporaries its `RD`s have set, what
stopped it, and the block. -/
structure HostRun where
  todo : List HostOp
  temps : List (Nat × Word)
  error : Option HostStop
  block : State
  deriving DecidableEq, Repr

/-- A program at its start. -/
def HostRun.start (ops : List HostOp) (s : State) : HostRun := { todo := ops, temps := [], error := none, block := s }

/-- The value of a temporary, if an `RD` has set it. -/
def HostRun.temp (x : HostRun) (t : Nat) : Option Word := x.temps.lookup t

/-- The value an operand stands for, or the temporary that is not set. -/
def HostRun.value (x : HostRun) : HostVal → Except Nat Word
  | .const v => .ok v
  | .temp t =>
    match x.temp t with
    | some v => .ok v
    | none => .error t

/-- An operation with its values looked up, or the first temporary that is not set. -/
def HostRun.resolve (x : HostRun) : HostOp → Except Nat HostAct
  | .wr off v =>
    match x.value v with
    | .ok w => .ok (.wr off w)
    | .error t => .error t
  | .rd off t => .ok (.rd off t)
  | .poll off mask value =>
    match x.value mask, x.value value with
    | .ok m, .ok v => .ok (.poll off m v)
    | .ok _, .error t => .error t
    | .error t, _ => .error t

/-- The program has run to its end. -/
def HostRun.ended (x : HostRun) : Bool := x.todo.isEmpty && x.error.isNone

/-- `t := v`. -/
def HostRun.setTemp (t : Nat) (v : Word) (x : HostRun) : HostRun :=
  { x with temps := (t, v) :: x.temps.filter fun p => p.1 != t }

/-- Past the first operation. -/
def HostRun.advance (x : HostRun) : HostRun := { x with todo := x.todo.tail }

/-- What the answer to its access does to a program at the operation `act` (R76): `RD` keeps the value in its temporary,
`POLL` stays until the value it reads matches, however often that is. "What a host does on a bus error is the host's"
(R55): the model's host stops there and presents no further access (DESIGN CHOICE, safe; log 25). -/
def HostRun.hear (act : HostAct) (r : Reply) (x : HostRun) : HostRun :=
  match r with
  | .fault f => { x with error := some (.fault f) }
  | .written => x.advance
  | .data v =>
    match act with
    | .wr _ _ => x.advance
    | .rd _ t => (x.setTemp t v).advance
    | .poll _ mask value => if v &&& mask = value then x.advance else x

/-- The program presents its next access, which `perform` answers, and hears the answer: one read of a `POLL`, else one
whole operation. A program that has ended, or was stopped, presents none. The notation gives no meaning to a temporary that
no `RD` has set: the model's host stops at it and presents no access (DESIGN CHOICE, safe; log 27). -/
def HostRun.present (perform : Access → State → State) (x : HostRun) : HostRun :=
  match x.error, x.todo with
  | none, op :: _ =>
    match x.resolve op with
    | .error t => { x with error := some (.unsetTemporary t) }
    | .ok act =>
      let b := perform act.access x.block
      match b.reply with
      | some (_, r) => { x with block := b }.hear act r
      | none => { x with block := b }
  | none, [] => x
  | some _, _ => x

/-- The program of host h makes its next access. -/
def HostRun.own (h : Nat) (x : HostRun) : HostRun := x.present fun a s => stateAfter (performAccess h a s) s

/-- The program of host h presents its next access while `rst` is asserted: it is not performed, and is answered as R190
says. -/
def HostRun.ownInReset (h : Nat) (x : HostRun) : HostRun := x.present fun a s => resetEvent (some (h, a)) s

/-- Who moves next around a host program (R10): the program's own host, or another agent with a turn of its own. -/
inductive Move where
  | own
  | ownInReset
  | other (t : Turn)
  deriving DecidableEq, Repr

/-- One move of a program of host h or of the agents around it (R60: one at a time). -/
def HostRun.move (h : Nat) (x : HostRun) : Move → HostRun
  | .own => x.own h
  | .ownInReset => x.ownInReset h
  | .other t => { x with block := stateAfter (takeTurn t x.block) x.block }

/-- A program of host h under a list of moves: any interleaving (R175, R197). -/
def HostRun.play (h : Nat) (moves : List Move) (x : HostRun) : HostRun := moves.foldl (HostRun.move h) x

/-- The moves of a host that has the block for itself, with an engine that takes its step after the first read of a
`POLL`: one of the interleavings R197 admits (DESIGN CHOICE, log 16). -/
def promptMoves (ops : List HostOp) : List Move :=
  ops.flatMap fun op =>
    match op with
    | .wr _ _ => [.own]
    | .rd _ _ => [.own]
    | .poll _ _ _ => [.own, .other .engine, .own]

/-- The operations of host h under `promptMoves`. A `POLL` that matches neither read is still the first of `todo` in the
run this gives. -/
def runOps (h : Nat) (ops : List HostOp) (s : State) : HostRun := (HostRun.start ops s).play h (promptMoves ops)

/-- What a receiver responds with (R182): the three tokens of R24. -/
inductive Token where
  | dataSuccess | dataError | codeError
  deriving DecidableEq, Repr

/-- R182: the token named by STATUS.RESULT; a VERIFY that ended with RESULT = NONE (LEN_INVALID) is answered
DATA_ERROR. -/
def tokenOf : ResultCode → Token
  | .dataSuccess => .dataSuccess
  | .dataError => .dataError
  | .codeError => .codeError
  | .noResult => .dataError

/-- R181, R182: the receiver host h: it loads `DATA = val(s)`, issues `VERIFY ℓ` and, "after its VERIFY has completed (or
ended at issue)", answers with the token. A string longer than 127 characters has no VERIFY word: VERIFY 127 stands for
it, which ends with LEN_INVALID too (DESIGN CHOICE, log 16). The spec gives no answer for a VERIFY that is ignored because
the block is busy with another host's job: none is given (DESIGN CHOICE, safe; log 26). -/
def receive (h : Nat) (str : List Bool) (s : State) : State × Option Token :=
  let run := runOps h (verOps (BitVec.ofNat 64 (val str)) (min str.length 127)) s
  (run.block, if s.job = none ∧ run.ended = true then some (tokenOf run.block.status.result) else none)

/-- What the channel gives the sender for one frame (R183): exactly one response, or ChannelError. -/
inductive ChannelResponse where
  | token (t : Token)
  | channelError
  deriving DecidableEq, Repr

/-- The sender's states (R183). -/
inductive SenderPhase where
  | idle
  | awaitingResult
  deriving DecidableEq, Repr

/-- What SendPayload returns (R183). -/
inductive SendResult where
  | success
  | codeError
  | connectivityFailure
  | exhausted
  deriving DecidableEq, Repr

/-- R180: the blocks of a sender and a receiver: "They may use one block or two". -/
inductive Blocks where
  /-- One block for both. -/
  | shared (s : State)
  /-- One for each. -/
  | separate (sender receiver : State)
  deriving DecidableEq, Repr

/-- The block the sender uses. -/
def Blocks.sender : Blocks → State
  | .shared s => s
  | .separate s _ => s

/-- The block the receiver uses. -/
def Blocks.receiver : Blocks → State
  | .shared s => s
  | .separate _ r => r

/-- What the sender did to its block. -/
def Blocks.setSender (t : State) : Blocks → Blocks
  | .shared _ => .shared t
  | .separate _ r => .separate t r

/-- What the receiver did to its block. -/
def Blocks.setReceiver (t : State) : Blocks → Blocks
  | .shared _ => .shared t
  | .separate s _ => .separate s t

/-- What the channel does with one frame (R183, 00_scope.md R5 (b): it is opaque). -/
inductive Delivery where
  /-- It answers so; what the receiver did is not followed. -/
  | answers (r : ChannelResponse)
  /-- It brings the frame to the receiver as it was sent, and the receiver's token back. -/
  | intact
  /-- It brings another string to the receiver, and the receiver's token back. -/
  | altered (str : List Bool)
  deriving DecidableEq, Repr

/-- A sender's account of one payload: its state and RetryState, the frames sent so far in order, the result if it has
ended, whether it stopped where the spec gives it no way on, and the blocks. -/
structure Sending where
  phase : SenderPhase
  retry : Nat
  sent : List (List Bool)
  result : Option SendResult
  stopped : Bool
  blocks : Blocks
  deriving DecidableEq, Repr

/-- SendPayload at its start: IDLE, RetryState 0 (R183). -/
def Sending.start (b : Blocks) : Sending :=
  { phase := .idle, retry := 0, sent := [], result := none, stopped := false, blocks := b }

/-- The sender's ENCODE n on the block s gave a completion (R181): the command has a word, it was not ignored for another
job, the program ran to its end, and the command was not refused. -/
def encodeCompleted (n : Nat) (s : State) (run : HostRun) : Bool :=
  decide (WellFormed (.encode n)) && !busy s && run.ended && run.block.status.err == .noError

/-- R183: the sender encodes the original payload on its block and sends the frame `bits(OUT, OUT_LEN)` of the completion
(R181). Where ENCODE is refused or ignored there is no completion, and the spec does not say what a sender then does: it
stops and sends nothing (DESIGN CHOICE, safe; log 26). -/
def sendFrame (h P n : Nat) (x : Sending) : Sending :=
  let run := runOps h (encOps (BitVec.ofNat 64 P) n) x.blocks.sender
  if encodeCompleted n x.blocks.sender run then
    { x with
      phase := .awaitingResult
      sent := x.sent ++ [outString run.block]
      blocks := x.blocks.setSender run.block }
  else { x with stopped := true, blocks := x.blocks.setSender run.block }

/-- A string reaches the receiver host h, which judges it on its block (R182). -/
def deliver (h : Nat) (str : List Bool) (b : Blocks) : Blocks × Option ChannelResponse :=
  let r := receive h str b.receiver
  (b.setReceiver r.1, r.2.map .token)

/-- `resp := Channel.send(frame)` (R183), with the receiver host h. -/
def channelSend (h : Nat) (frame : List Bool) (d : Delivery) (b : Blocks) : Blocks × Option ChannelResponse :=
  match d with
  | .answers r => (b, some r)
  | .intact => deliver h frame b
  | .altered str => deliver h str b

/-- The end of SendPayload: IDLE, RetryState 0 (R183). -/
def endSending (r : SendResult) (x : Sending) : Sending := { x with phase := .idle, retry := 0, result := some r }

/-- The loop of R183 of the sender host h over what the channel does with each frame, with the receiver host h'. A payload
is encoded anew for each attempt, on the block as the receiver left it where both use one. With no delivery left the
sender awaits one; where the receiver gives no answer (log 26) it stops. -/
def sendLoop (maxAttempts h h' P n : Nat) : List Delivery → Sending → Sending
  | [], x => sendFrame h P n x
  | d :: rest, x =>
    let y := sendFrame h P n x
    if y.stopped then y else
    let c := channelSend h' (y.sent.getLastD []) d y.blocks
    let z := { y with blocks := c.1 }
    match c.2 with
    | none => { z with stopped := true }
    | some (.token .dataSuccess) => endSending .success z
    | some (.token .codeError) => endSending .codeError z
    | some .channelError => endSending .connectivityFailure z
    | some (.token .dataError) =>
      if z.retry + 1 < maxAttempts then
        sendLoop maxAttempts h h' P n rest { z with phase := .idle, retry := z.retry + 1 }
      else endSending .exhausted z

/-- R183 `SendPayload(P, n)` of the sender host h, with the receiver host h', on the blocks b. -/
def sendPayload (maxAttempts h h' P n : Nat) (ds : List Delivery) (b : Blocks) : Sending :=
  sendLoop maxAttempts h h' P n ds (Sending.start b)

/-- A host with the generator value it was given "out of band" (R180). -/
structure Party where
  host : Nat
  code : Word
  deriving DecidableEq, Repr

/-- R193 steps (2) to (4): write GEN_IN, issue SETGEN, read STATUS. -/
def bootOps (g : Word) : List HostOp := cfgOps (.const g) ++ [.rd Reg.status.offset 0]

/-- R193 step (4): the word of STATUS has ERR = NONE and CODE_VALID = 1 (their places are R23's). -/
def statusReady (w : Word) : Bool := w.extractLsb' 8 4 == 0 && w.getLsbD 1

/-- R180: a host "configures its block's generator with SETGEN before use"; and whether the check of R193 step (4)
passes. -/
def configure (p : Party) (s : State) : State × Bool :=
  let run := runOps p.host (bootOps p.code) s
  (run.block, run.ended &&
    match run.temp 0 with
    | some w => statusReady w
    | none => false)

/-- R180: a sender and a receiver configure their blocks, the sender first, and the sender then sends a payload. A sender
whose check fails sends nothing; a receiver whose check fails answers as its block judges (DESIGN CHOICE, log 28). -/
def session (maxAttempts : Nat) (sender receiver : Party) (P n : Nat) (ds : List Delivery) (b : Blocks) : Sending :=
  let a := configure sender b.sender
  let c := configure receiver (b.setSender a.1).receiver
  let ready := (b.setSender a.1).setReceiver c.1
  if a.2 then sendPayload maxAttempts sender.host receiver.host P n ds ready
  else { Sending.start ready with stopped := true }

end Sys2Proof.Machine
end

