-- ==== Sys2Proof/Safety.lean ====
section
/-! DEFINITION. What counts as a good state and a safe step, in the terms the statements use. -/

namespace Sys2Proof.Machine

/-- The generators R100 gives the divider for: degree r of 1 to 31 and `2^r ≤ G < 2^(r+1)`. -/
def ValidGenerator (G r : Nat) : Prop := 1 ≤ r ∧ r ≤ 31 ∧ 2 ^ r ≤ G ∧ G < 2 ^ (r + 1)

/-- The jobs an issue can start (R40, R121, R122, R141 to R144): the divider's range of R100, and the length in the
range of its command. -/
def Job.admissible (j : Job) : Prop :=
  ValidGenerator j.g.toNat j.r.toNat ∧ j.d.toNat < 2 ^ j.n ∧
    (j.op = .enc → 1 ≤ j.n ∧ j.n ≤ 32) ∧ (j.op = .ver → j.r.toNat ≤ j.n ∧ j.n ≤ 64)

/-- R35, the generator invariant. -/
def GeneratorInv (s : State) : Prop :=
  (s.status.codeValid = true →
    2 ≤ s.gen.toNat ∧ s.genDeg.toNat = bitlen s.gen.toNat - 1 ∧ 1 ≤ s.genDeg.toNat ∧ s.genDeg.toNat ≤ 31) ∧
  (s.status.codeValid = false → s.gen = 0 ∧ s.genDeg = 0)

/-- What holds of the job in flight: its snapshot is still what the registers hold (R41), its length passed the checks
(R121, R141, R143), a generator is configured (R104), and OK, RESULT and ERR are as the issue left them
(93_implementation_defined.md row 10). -/
def JobInv (s : State) : Prop :=
  ∀ j, s.job = some j →
    s.status.codeValid = true ∧ j.g = s.gen ∧ j.r = s.genDeg ∧ j.d = operand s j.n ∧
    (j.op = .enc → 1 ≤ j.n ∧ j.n ≤ 32) ∧ (j.op = .ver → j.r.toNat ≤ j.n ∧ j.n ≤ 64) ∧
    s.status.ok = false ∧ s.status.result = .noResult ∧ s.status.err = .noError

/-- R31 to R34: the result registers hold values of the widths the spec states for them. -/
def ResultInv (s : State) : Prop :=
  (outPair s).toNat < 2 ^ s.outLen.toNat ∧ s.outLen.toNat ≤ 63 ∧ s.chk.toNat < 2 ^ 31 ∧ s.rem.toNat < 2 ^ 31

/-- R24, R43, R160: how OK, RESULT and ERR go together, and with REM (the last division's remainder, R34). -/
def VerdictInv (s : State) : Prop :=
  (s.status.ok = true ↔ s.status.result = .dataSuccess) ∧
  (s.status.result = .dataSuccess → s.status.err = .noError ∧ s.rem = 0) ∧
  (s.status.result = .dataError → s.status.err = .noError ∧ s.rem ≠ 0 ∨ s.status.err = .malformedFrame) ∧
  (s.status.result = .codeError → s.status.err = .noCode ∧ s.status.codeValid = false) ∧
  (s.status.err = .malformedFrame → s.status.result = .dataError)

/-- The invariant of the block. -/
def Inv (s : State) : Prop := GeneratorInv s ∧ JobInv s ∧ ResultInv s ∧ VerdictInv s

/-- A safe step: it ends in a next state, and that state is good. -/
def SafeStep (s : State) : Prop := ∃ t, step s = .next t ∧ Inv t

/-- The accesses R202 tells a host to hold back while BUSY is 1: reads of a result register, and writes of GEN_IN,
DATA_LO, DATA_HI or CMD. -/
def Access.mustWait (a : Access) : Bool :=
  a.admitted &&
    match regAt a.off, a.dir with
    | some r, .read => r.isResult
    | some r, .write _ => r == .genIn || r == .dataLo || r == .dataHi || r == .cmd
    | none, _ => false

/-- R202, the software rule: an access keeps it when it does not come while BUSY is 1 or is not one to hold back. -/
def Access.keepsWaitRule (a : Access) (s : State) : Prop := busy s = true → a.mustWait = false

end Sys2Proof.Machine
end

