-- ==== Sys2Proof/Certificates/Slice0/Obligations.lean ====
section
/-! DEFINITION. The statements for the provers, each a formal reading of rules of spec/. The helpers before them are
written from the rules, not from the model: tables of the rules, and the polynomial a value stands for. -/

open Sys2Proof Sys2Proof.Machine

namespace Sys2Proof.Machine

/-- R103: the polynomial `Σ v[i] x^i` over GF(2). -/
noncomputable def gf2Poly (v : Nat) : Polynomial (ZMod 2) :=
  ∑ i ∈ Finset.range (bitlen v), if v.testBit i then Polynomial.X ^ i else 0

/-- STATUS after the issue-time clearing, with a RESULT and an ERR (R163, R161). -/
def statusAfterIssue (st : Status) (c : ResultCode) (e : ErrCode) : Status :=
  { codeValid := st.codeValid, ok := false, result := c, err := e, ovr := st.ovr }

/-- The number DATA = (DATA_HI << 32) xor DATA_LO (R30). -/
def dataNat (s : State) : Nat := s.dataHi.toNat * 2 ^ 32 + s.dataLo.toNat

/-- R53, the table of reads while no result register is withheld. -/
def readTable (off : Offset) (s : State) : Word :=
  match off.toNat with
  | 0x00 => 0x00402020
  | 0x04 => statusWord s
  | 0x0C => s.genIn
  | 0x10 => s.gen
  | 0x14 => s.genDeg.setWidth 32
  | 0x18 => s.dataLo
  | 0x1C => s.dataHi
  | 0x20 => s.outLo
  | 0x24 => s.outHi
  | 0x28 => s.outLen.setWidth 32
  | 0x2C => s.chk
  | 0x30 => s.rem
  | _ => 0

/-- R53: the offsets of the result registers. -/
def resultOffsets : List Offset := [0x20, 0x24, 0x28, 0x2C, 0x30]

/-- R56, the table of writes, but for CMD. -/
def writeTable (off : Offset) (v : Word) (s : State) : State :=
  let ignored := { s with status := { s.status with ovr := true } }
  match off.toNat with
  | 0x04 => if v.getLsbD 16 then { s with status := { s.status with ovr := false } } else s
  | 0x0C => if s.job = none then { s with genIn := v } else ignored
  | 0x18 => if s.job = none then { s with dataLo := v } else ignored
  | 0x1C => if s.job = none then { s with dataHi := v } else ignored
  | _ => s

/-- The next pending turn of s is a 4-byte read of `off` by host h, and `rest` comes after it. -/
def ReadsNext (s : State) (h : Nat) (off : Offset) (rest : List Turn) : Prop :=
  s.turns = .access h { off := off, size := 4, dir := .read } :: rest

/-- The next pending turn of s is a 4-byte write of v to `off` by host h, and `rest` comes after it. -/
def WritesNext (s : State) (h : Nat) (off : Offset) (v : Word) (rest : List Turn) : Prop :=
  s.turns = .access h { off := off, size := 4, dir := .write v } :: rest

end Sys2Proof.Machine

/-! ### Command words -/

/-- R72, R76: no bit of a command's word is dropped: decoding the word of a well-formed command gives the command, for
every length the LEN field holds. -/
def Obligations.DecodeOfEncodeIsTheInstruction : Prop :=
  ∀ i : Instr, WellFormed i → decode (encode i) = .ok i

/-- R73, R75: a word that decodes is the one word of its command. -/
def Obligations.DecodedWordIsItsEncoding : Prop :=
  ∀ (w : Word) (i : Instr), decode w = .ok i → WellFormed i ∧ encode i = w

/-- R73 and the row masks of R71: `Decode` as the rule writes it, and the three rows are disjoint. -/
def Obligations.DecodeFollowsTheOpcodeMap : Prop :=
  (∀ w : Word,
    if w = 0x00000001 then decode w = .ok .setgen
    else if w &&& 0xFFFF80FF = 0x00000002 then decode w = .ok (.encode (w.toNat / 2 ^ 8 % 2 ^ 7))
    else if w &&& 0xFFFF80FF = 0x00000003 then decode w = .ok (.verify (w.toNat / 2 ^ 8 % 2 ^ 7))
    else ∃ e, decode w = .error e) ∧
  (∀ w : Word,
    (setgenRow.selects w = true → encodeRow.selects w = false ∧ verifyRow.selects w = false) ∧
    (encodeRow.selects w = true → verifyRow.selects w = false))

/-- R74, R164: which words are ILLEGAL, said on the number w (OPC = w mod 16, Z0 the next four bits, LEN bits 14:8, Z1 the
bits from 15 on), and what issuing one does while no job is in flight: ERR becomes ILLEGAL_CMD and nothing else changes but
the issue-time clearing. The all-zero word is one. -/
def Obligations.IllegalWordsAndTheirOutcome : Prop :=
  (∀ w : Word, (∃ e, decode w = .error e) ↔
    (w.toNat % 16 = 0 ∨ 4 ≤ w.toNat % 16 ∨ w.toNat / 2 ^ 4 % 2 ^ 4 ≠ 0 ∨ w.toNat / 2 ^ 15 ≠ 0 ∨
      (w.toNat % 16 = 1 ∧ w.toNat / 2 ^ 8 % 2 ^ 7 ≠ 0))) ∧
  (∀ (w : Word) (e : IllegalWord) (s : State), decode w = .error e → s.job = none →
    commandWrite w s = .next { s with status := statusAfterIssue s.status .noResult .illegalCmd }) ∧
  (∃ e, decode 0x00000000 = .error e)

/-- R78, the encoding examples, with the two that are refused at execution. -/
def Obligations.SampleCommandWords : Prop :=
  encode .setgen = 0x00000001 ∧ encode (.encode 4) = 0x00000402 ∧ encode (.encode 32) = 0x00002002 ∧
  encode (.encode 33) = 0x00002102 ∧ encode (.verify 127) = 0x00007F03 ∧ encode (.verify 7) = 0x00000703 ∧ encode (.verify 0) = 0x00000003 ∧ encode (.verify 64) = 0x00004003 ∧
  decode 0x00000001 = .ok .setgen ∧ decode 0x00000402 = .ok (.encode 4) ∧ decode 0x00002002 = .ok (.encode 32) ∧
  decode 0x00002102 = .ok (.encode 33) ∧ decode 0x00000703 = .ok (.verify 7) ∧ decode 0x00000003 = .ok (.verify 0) ∧
  decode 0x00004003 = .ok (.verify 64) ∧ decode 0x00007F03 = .ok (.verify 127) ∧
  (∀ s : State, s.job = none → ∀ w : Word, w = 0x00002102 ∨ w = 0x00007F03 →
    commandWrite w s = .next { s with status := statusAfterIssue s.status .noResult .lenInvalid }) ∧
  (∀ w : Word, w = 0x00000101 ∨ w = 0x00000012 ∨ w = 0x00008002 ∨ w = 0x00000004 → ∃ e, decode w = .error e)

/-- R45, R60, R162: when the next turn writes to CMD a word that decodes to i, the step is `exec i` at the state in which
that turn is taken off the pending turns and the port acknowledges the write. (The pending turns and the port's reply are
the model's own fields, logs 1 and 4.) -/
def Obligations.StepRunsTheWrittenCommand : Prop :=
  ∀ (s : State) (h : Nat) (w : Word) (rest : List Turn) (i : Instr),
    WritesNext s h 0x08 w rest → decode w = .ok i →
    step s = exec i { s with turns := rest, reply := some (h, .written) }

/-- R165: the one outcome of a CMD write, in the order of the rule's list; a job that starts raises no error when it
completes. -/
def Obligations.CommandOutcomePriority : Prop :=
  ∀ (w : Word) (s : State),
    (s.job ≠ none → commandWrite w s = .next { s with status := { s.status with ovr := true } }) ∧
    (s.job = none →
      (∀ e, decode w = .error e →
        commandWrite w s = .next { s with status := statusAfterIssue s.status .noResult .illegalCmd }) ∧
      (decode w = .ok .setgen → s.genIn.toNat < 2 →
        commandWrite w s = .next { s with status := statusAfterIssue s.status .noResult .genInvalid }) ∧
      (decode w = .ok .setgen → 2 ≤ s.genIn.toNat →
        ∃ t, commandWrite w s = .next t ∧ t.gen = s.genIn ∧ t.job = none ∧
          t.status = { statusAfterIssue s.status .noResult .noError with codeValid := true }) ∧
      (∀ n, decode w = .ok (.encode n) →
        ((n < 1 ∨ 32 < n) →
          commandWrite w s = .next { s with status := statusAfterIssue s.status .noResult .lenInvalid }) ∧
        (1 ≤ n → n ≤ 32 → s.status.codeValid = false →
          commandWrite w s = .next { s with status := statusAfterIssue s.status .noResult .noCode }) ∧
        (1 ≤ n → n ≤ 32 → s.status.codeValid = true →
          ∃ t j, commandWrite w s = .next t ∧ t.job = some j ∧ j.op = .enc ∧
            t.status = statusAfterIssue s.status .noResult .noError ∧ (engineStep t).status.err = .noError)) ∧
      (∀ n, decode w = .ok (.verify n) →
        (64 < n →
          commandWrite w s = .next { s with status := statusAfterIssue s.status .noResult .lenInvalid }) ∧
        (n ≤ 64 → s.status.codeValid = false →
          commandWrite w s = .next { s with status := statusAfterIssue s.status .codeError .noCode }) ∧
        (n ≤ 64 → s.status.codeValid = true → n < s.genDeg.toNat →
          commandWrite w s = .next { s with status := statusAfterIssue s.status .dataError .malformedFrame }) ∧
        (n ≤ 64 → s.status.codeValid = true → s.genDeg.toNat ≤ n →
          ∃ t j, commandWrite w s = .next t ∧ t.job = some j ∧ j.op = .ver ∧
            t.status = statusAfterIssue s.status .noResult .noError ∧ (engineStep t).status.err = .noError)))

/-! ### SETGEN -/

/-- R91: SETGEN of a value of 2 or more, while no job is in flight, installs it: GEN, GEN_DEG = bitlen - 1 and CODE_VALID,
and changes nothing else but the issue-time clearing; a value of 0 or 1 raises GEN_INVALID and leaves them. -/
def Obligations.SetgenInstallsTheGenerator : Prop :=
  ∀ s : State, s.job = none →
    (2 ≤ s.genIn.toNat → ∃ d : BitVec 5, d.toNat = bitlen s.genIn.toNat - 1 ∧ 1 ≤ d.toNat ∧ d.toNat ≤ 31 ∧
      exec .setgen s = .next { s with
        gen := s.genIn
        genDeg := d
        status := { statusAfterIssue s.status .noResult .noError with codeValid := true } }) ∧
    (s.genIn.toNat < 2 →
      exec .setgen s = .next { s with status := statusAfterIssue s.status .noResult .genInvalid })

/-- R93: a refused SETGEN leaves GEN, GEN_DEG and CODE_VALID exactly as they were. -/
def Obligations.RefusedSetgenKeepsTheGenerator : Prop :=
  ∀ s : State, s.job = none → s.genIn = 0 ∨ s.genIn = 1 →
    ∃ t, exec .setgen s = .next t ∧ t.status.err = .genInvalid ∧
      t.gen = s.gen ∧ t.genDeg = s.genDeg ∧ t.status.codeValid = s.status.codeValid

/-- R92: the values SETGEN accepts are exactly 2 to 2^32 - 1, and the degree it installs is 1 to 31 and is the place of the
value's top bit, so that the pair is one R100 gives the divider for. -/
def Obligations.InstalledGeneratorIsValid : Prop :=
  ∀ s : State, s.job = none → ∃ t, exec .setgen s = .next t ∧
    (t.status.err = .noError ↔ 2 ≤ s.genIn.toNat) ∧
    (2 ≤ s.genIn.toNat → t.status.codeValid = true ∧ ValidGenerator t.gen.toNat t.genDeg.toNat) ∧
    (s.genIn.toNat < 2 → t.status.err = .genInvalid)

/-! ### Issue of ENCODE and VERIFY -/

/-- R122: ENCODE n with 1 ≤ n ≤ 32, a generator configured and no job in flight starts the job {ENC, n, DATA[n-1:0], GEN,
GEN_DEG} and changes nothing else but the issue-time clearing of R163. -/
def Obligations.EncodeStartsItsJob : Prop :=
  ∀ (n : Nat) (s : State), s.job = none → s.status.codeValid = true → 1 ≤ n → n ≤ 32 →
    ∃ d : Pair, d.toNat = dataNat s % 2 ^ n ∧
      exec (.encode n) s = .next { s with
        status := statusAfterIssue s.status .noResult .noError
        job := some { op := .enc, n := n, d := d, g := s.gen, r := s.genDeg } }

/-- R121: the checks of ENCODE in their order; a refused ENCODE writes only STATUS. -/
def Obligations.EncodeRefusals : Prop :=
  ∀ (n : Nat) (s : State), s.job = none →
    (n < 1 ∨ 32 < n →
      exec (.encode n) s = .next { s with status := statusAfterIssue s.status .noResult .lenInvalid }) ∧
    (1 ≤ n → n ≤ 32 → s.status.codeValid = false →
      exec (.encode n) s = .next { s with status := statusAfterIssue s.status .noResult .noCode })

/-- R144: VERIFY n with n ≤ 64, a generator configured, n at least its degree and no job in flight starts the job {VER, n,
DATA[n-1:0], GEN, GEN_DEG} and changes nothing else but the issue-time clearing of R163. -/
def Obligations.VerifyStartsItsJob : Prop :=
  ∀ (n : Nat) (s : State), s.job = none → s.status.codeValid = true → n ≤ 64 → s.genDeg.toNat ≤ n →
    ∃ d : Pair, d.toNat = dataNat s % 2 ^ n ∧
      exec (.verify n) s = .next { s with
        status := statusAfterIssue s.status .noResult .noError
        job := some { op := .ver, n := n, d := d, g := s.gen, r := s.genDeg } }

/-- R141, R142, R143: the checks of VERIFY in their order, with the RESULT each writes; only STATUS changes. -/
def Obligations.VerifyRefusals : Prop :=
  ∀ (n : Nat) (s : State), s.job = none →
    (64 < n →
      exec (.verify n) s = .next { s with status := statusAfterIssue s.status .noResult .lenInvalid }) ∧
    (n ≤ 64 → s.status.codeValid = false →
      exec (.verify n) s = .next { s with status := statusAfterIssue s.status .codeError .noCode }) ∧
    (n ≤ 64 → s.status.codeValid = true → n < s.genDeg.toNat →
      exec (.verify n) s = .next { s with status := statusAfterIssue s.status .dataError .malformedFrame })

/-- The frame of the three commands (R36, R94): at its CMD write a command changes no register but STATUS and, for SETGEN,
GEN and GEN_DEG; only SETGEN changes CODE_VALID; OVR changes only where the write is ignored for BUSY, and then nothing
else does; SETGEN never touches JOB. The model's own fields stay. -/
def Obligations.CommandsKeepOtherRegisters : Prop :=
  ∀ (i : Instr) (s t : State), exec i s = .next t →
    (∀ r : Reg, r ≠ .status → (i = .setgen → r ≠ .gen ∧ r ≠ .genDeg) → regValue t r = regValue s r) ∧
    (i ≠ .setgen → t.status.codeValid = s.status.codeValid) ∧
    (i = .setgen → t.job = s.job) ∧
    (s.job = none → t.status.ovr = s.status.ovr) ∧
    (s.job ≠ none → t = { s with status := { s.status with ovr := true } }) ∧
    t.turns = s.turns ∧ t.reply = s.reply ∧ t.draws = s.draws

/-! ### The divider -/

/-- R102: after every iteration of R100, from any register value below 2^r, the register is below 2^r; so the remainder is,
and its r-bit string has exactly r characters and that value. -/
def Obligations.RemainderFitsTheDegree : Prop :=
  ∀ G r : Nat, 2 ^ r ≤ G → G < 2 ^ (r + 1) →
    (∀ D i R : Nat, R < 2 ^ r → reduce G r (shiftIn D i R) < 2 ^ r) ∧
    (∀ D n : Nat, pmod D n G r < 2 ^ r ∧
      (bits (pmod D n G r) r).length = r ∧ val (bits (pmod D n G r) r) = pmod D n G r)

/-- R101: the source's seeded form computes the same function. -/
def Obligations.SeededDivisionAgrees : Prop :=
  ∀ D n G r : Nat, D < 2 ^ n → pmodSrc D n G r = pmod D n G r

/-- R105: a dividend of at most r bits is its own remainder. -/
def Obligations.ShortDividendIsItsRemainder : Prop :=
  (∀ D n G r : Nat, n ≤ r → D < 2 ^ n → pmod D n G r = D) ∧ (∀ G r : Nat, pmod 0 0 G r = 0)

/-- R106: leading zeros do not change the remainder; the zero dividend of any length has remainder 0. -/
def Obligations.LeadingZerosDoNotMatter : Prop :=
  (∀ D n k G r : Nat, D < 2 ^ n → pmod D (n + k) G r = pmod D n G r) ∧ (∀ n G r : Nat, pmod 0 n G r = 0)

/-- R107: the remainder is linear, so an error pattern E changes it by its own remainder and goes undetected exactly when
that is 0. -/
def Obligations.RemainderIsLinear : Prop :=
  ∀ A B n G r : Nat,
    pmod (A ^^^ B) n G r = pmod A n G r ^^^ pmod B n G r ∧
    (pmod (A ^^^ B) n G r = pmod A n G r ↔ pmod B n G r = 0)

/-- R103: the remainder is the unique polynomial of degree below r that differs from D(x) by a multiple of G(x), and it is
0 exactly when G(x) divides D(x). -/
def Obligations.RemainderIsThePolynomialRemainder : Prop :=
  ∀ D n G r : Nat, D < 2 ^ n → ValidGenerator G r →
    (gf2Poly (pmod D n G r)).degree < (r : WithBot ℕ) ∧
    (∃ Q : Polynomial (ZMod 2), gf2Poly D = Q * gf2Poly G + gf2Poly (pmod D n G r)) ∧
    (∀ Q R : Polynomial (ZMod 2), R.degree < (r : WithBot ℕ) → gf2Poly D = Q * gf2Poly G + R →
      R = gf2Poly (pmod D n G r)) ∧
    (pmod D n G r = 0 ↔ gf2Poly G ∣ gf2Poly D)

/-- R108: which single-bit errors a generator detects. -/
def Obligations.SingleBitRemainders : Prop :=
  ∀ G r n i : Nat, ValidGenerator G r → i < n →
    (G ≠ 2 ^ r → pmod (2 ^ i) n G r ≠ 0) ∧
    (G = 2 ^ r → (pmod (2 ^ i) n G r = 0 ↔ r ≤ i))

/-! ### Completion of ENCODE -/

/-- R124: the engine's step on an ENCODE job {ENC, n, P, G, r}: CHK and REM are the checksum c, OUT the frame F with
F < 2^63, OUT_LEN = n + r of 2 to 63; JOB is NONE afterwards, and STATUS (OK, RESULT, ERR among it), the generator and the
operands are not written. -/
def Obligations.EncodeCompletion : Prop :=
  ∀ (s : State) (j : Job), s.job = some j → j.op = .enc → j.admissible →
    let c := pmod (j.d.toNat <<< j.r.toNat) (j.n + j.r.toNat) j.g.toNat j.r.toNat
    let F := (j.d.toNat <<< j.r.toNat) ^^^ c
    let t := engineStep s
    c < 2 ^ j.r.toNat ∧ F < 2 ^ 63 ∧ 2 ≤ j.n + j.r.toNat ∧ j.n + j.r.toNat ≤ 63 ∧
    t.chk.toNat = c ∧ t.rem.toNat = c ∧ t.outLo.toNat = F % 2 ^ 32 ∧ t.outHi.toNat = F / 2 ^ 32 ∧
    t.outLen.toNat = j.n + j.r.toNat ∧ t.job = none ∧ t.status = s.status ∧
    t.genIn = s.genIn ∧ t.gen = s.gen ∧ t.genDeg = s.genDeg ∧ t.dataLo = s.dataLo ∧ t.dataHi = s.dataHi

/-- R125, R127: the frame written is the concatenation of the n-bit payload and the r-bit checksum, as a pair and as the
string `bits(OUT, OUT_LEN)`; the checksum string has exactly r characters, for the zero payload r zeros. -/
def Obligations.FrameIsPayloadThenChecksum : Prop :=
  ∀ (s : State) (j : Job), s.job = some j → j.op = .enc → j.admissible →
    let r := j.r.toNat
    let c := checksum j.d.toNat j.n j.g.toNat r
    let t := engineStep s
    concatPair (j.d.toNat, j.n) (c, r) = (t.outHi.toNat * 2 ^ 32 + t.outLo.toNat, t.outLen.toNat) ∧
    outString t = bits j.d.toNat j.n ++ bits t.chk.toNat r ∧
    (bits t.chk.toNat r).length = r ∧ val (bits t.chk.toNat r) = c ∧
    (j.d = 0 → t.chk = 0)

/-- R126: ENCODE is a function of (P, n, G, r): two states that agree on them write the same results, whatever else they
hold; and the checksum does not depend on the payload's length beyond its value. -/
def Obligations.EncodeIsPure : Prop :=
  (∀ (n : Nat) (s s' : State), s.job = none → s'.job = none →
    s.status.codeValid = true → s'.status.codeValid = true → 1 ≤ n → n ≤ 32 →
    s.gen = s'.gen → s.genDeg = s'.genDeg → dataNat s % 2 ^ n = dataNat s' % 2 ^ n →
    ∃ t t', exec (.encode n) s = .next t ∧ exec (.encode n) s' = .next t' ∧
      (engineStep t).chk = (engineStep t').chk ∧ (engineStep t).rem = (engineStep t').rem ∧
      (engineStep t).outLo = (engineStep t').outLo ∧ (engineStep t).outHi = (engineStep t').outHi ∧
      (engineStep t).outLen = (engineStep t').outLen) ∧
  (∀ P n k G r : Nat, P < 2 ^ n → checksum P (n + k) G r = checksum P n G r)

/-- R128: the frame ENCODE writes divides exactly, and VERIFY of the pair (OUT, OUT_LEN) under the same generator gives
DATA_SUCCESS with remainder 0 and gives the payload and the checksum back. -/
def Obligations.EncodeVerifyRoundTrip : Prop :=
  ∀ (n : Nat) (s : State), s.job = none → s.status.codeValid = true → GeneratorInv s → 1 ≤ n → n ≤ 32 →
    ∃ t, exec (.encode n) s = .next t ∧
      pmod (outPair (engineStep t)).toNat (n + s.genDeg.toNat) s.gen.toNat s.genDeg.toNat = 0 ∧
      ∃ v, exec (.verify (engineStep t).outLen.toNat)
          { engineStep t with dataLo := (engineStep t).outLo, dataHi := (engineStep t).outHi } = .next v ∧
        v.job ≠ none ∧
        (engineStep v).job = none ∧ (engineStep v).status.result = .dataSuccess ∧ (engineStep v).status.ok = true ∧
        (engineStep v).status.err = .noError ∧ (engineStep v).rem = 0 ∧
        (engineStep v).chk = (engineStep t).chk ∧ (engineStep v).outLen.toNat = n ∧
        (outPair (engineStep v)).toNat = dataNat s % 2 ^ n

/-! ### Completion of VERIFY -/

/-- R146, R147: the engine's step on a VERIFY job {VER, n, F, G, r}: REM is the remainder m of the whole frame, OK and
RESULT the verdict, CHK the trailing r bits, OUT the rest, OUT_LEN = n - r of 0 to 63; JOB is NONE afterwards; ERR, OVR,
CODE_VALID, the generator and the operands are not written. -/
def Obligations.VerifyCompletion : Prop :=
  ∀ (s : State) (j : Job), s.job = some j → j.op = .ver → j.admissible →
    let m := pmod j.d.toNat j.n j.g.toNat j.r.toNat
    let P := j.d.toNat >>> j.r.toNat
    let t := engineStep s
    m < 2 ^ j.r.toNat ∧ P < 2 ^ 63 ∧ j.n - j.r.toNat ≤ 63 ∧
    t.rem.toNat = m ∧
    (m = 0 → t.status = { s.status with ok := true, result := .dataSuccess }) ∧
    (m ≠ 0 → t.status = { s.status with ok := false, result := .dataError }) ∧
    t.chk.toNat = j.d.toNat % 2 ^ j.r.toNat ∧
    t.outLo.toNat = P % 2 ^ 32 ∧ t.outHi.toNat = P / 2 ^ 32 ∧ t.outLen.toNat = j.n - j.r.toNat ∧ t.job = none ∧
    t.genIn = s.genIn ∧ t.gen = s.gen ∧ t.genDeg = s.genDeg ∧ t.dataLo = s.dataLo ∧ t.dataHi = s.dataHi

/-- R148: the remainder of a frame is the recomputed checksum of its payload segment xor its checksum segment, so a VERIFY
job ends with DATA_SUCCESS exactly when the received checksum equals the recomputed one. -/
def Obligations.RemainderComparesTheSegments : Prop :=
  ∀ (s : State) (j : Job), s.job = some j → j.op = .ver → j.admissible →
    let r := j.r.toNat
    let P := j.d.toNat >>> r
    let C := j.d.toNat % 2 ^ r
    pmod j.d.toNat j.n j.g.toNat r = pmod (P <<< r) j.n j.g.toNat r ^^^ C ∧
    ((engineStep s).status.result = .dataSuccess ↔ C = checksum P (j.n - r) j.g.toNat r)

/-- R149: a frame of exactly r bits is accepted (a job starts); its split gives the empty payload and CHK = F, its remainder
is F, so only the all-zero frame gives DATA_SUCCESS. A frame of 0 bits is always short. -/
def Obligations.FramesOfExactlyDegreeBits : Prop :=
  ∀ s : State, s.job = none → s.status.codeValid = true → GeneratorInv s →
    (∃ t, exec (.verify s.genDeg.toNat) s = .next t ∧ t.job ≠ none ∧
      (engineStep t).outLen = 0 ∧ outPair (engineStep t) = 0 ∧
      (engineStep t).chk.toNat = dataNat s % 2 ^ s.genDeg.toNat ∧
      (engineStep t).rem.toNat = dataNat s % 2 ^ s.genDeg.toNat ∧
      ((engineStep t).status.result = .dataSuccess ↔ dataNat s % 2 ^ s.genDeg.toNat = 0)) ∧
    (∃ t, exec (.verify 0) s = .next t ∧ t.job = none ∧
      t.status.result = .dataError ∧ t.status.err = .malformedFrame)

/-- R150: an encoded frame with one bit flipped, at bit position i of its n + r, under the same generator: DATA_ERROR with
a nonzero remainder when the generator is no monomial; for a monomial 2^r, DATA_SUCCESS when the position is not among the
last r. -/
def Obligations.SingleBitFlipVerdict : Prop :=
  ∀ (s : State) (j : Job) (P n i : Nat), s.job = some j → j.op = .ver → j.admissible →
    1 ≤ n → n ≤ 32 → P < 2 ^ n → i < n + j.r.toNat → j.n = n + j.r.toNat →
    j.d.toNat = frame P n j.g.toNat j.r.toNat ^^^ 2 ^ i →
    (j.g.toNat ≠ 2 ^ j.r.toNat →
      (engineStep s).status.result = .dataError ∧ (engineStep s).status.ok = false ∧ (engineStep s).rem ≠ 0) ∧
    (j.g.toNat = 2 ^ j.r.toNat → j.r.toNat ≤ i → (engineStep s).status.result = .dataSuccess)

/-- R151: the outcome of a VERIFY is a function of (n, F, G, r, CODE_VALID) at its issue: two states that agree on them get
the same OK, RESULT and ERR, both start a job or neither does, and a job started writes the same results. -/
def Obligations.VerifyIsStateless : Prop :=
  ∀ (n : Nat) (s s' : State), s.job = none → s'.job = none →
    s.status.codeValid = s'.status.codeValid → s.gen = s'.gen → s.genDeg = s'.genDeg →
    dataNat s % 2 ^ n = dataNat s' % 2 ^ n →
    ∃ t t', exec (.verify n) s = .next t ∧ exec (.verify n) s' = .next t' ∧ t.job = t'.job ∧
      (engineStep t).status.ok = (engineStep t').status.ok ∧
      (engineStep t).status.result = (engineStep t').status.result ∧
      (engineStep t).status.err = (engineStep t').status.err ∧
      (t.job ≠ none →
        (engineStep t).chk = (engineStep t').chk ∧ (engineStep t).rem = (engineStep t').rem ∧
        (engineStep t).outLo = (engineStep t').outLo ∧ (engineStep t).outHi = (engineStep t').outHi ∧
        (engineStep t).outLen = (engineStep t').outLen)

/-! ### The bus port -/

/-- R53, R201: an admitted read answers the register of R53's table and changes no register; a result register read while
BUSY = 1 answers a free value, which may be another one at the next read. (`draws` counts those, log 5.) -/
def Obligations.ReadsAnswerTheRegisters : Prop :=
  ∀ (s : State) (h : Nat) (off : Offset) (rest : List Turn), ReadsNext s h off rest → off.toNat % 4 = 0 →
    (s.job = none ∨ off ∉ resultOffsets →
      step s = .next { s with turns := rest, reply := some (h, .data (readTable off s)) }) ∧
    (s.job ≠ none → off ∈ resultOffsets →
      step s = .next { s with
        turns := rest
        reply := some (h, .data (Config.anyRead s.draws))
        draws := s.draws + 1 })

/-- R56: an admitted write does what R56's table says; a write of CMD is the command write of R162. -/
def Obligations.WritesReachTheRegisters : Prop :=
  ∀ (s : State) (h : Nat) (off : Offset) (v : Word) (rest : List Turn),
    WritesNext s h off v rest → off.toNat % 4 = 0 →
    (off ≠ 0x08 → step s = .next { writeTable off v s with turns := rest, reply := some (h, .written) }) ∧
    (off = 0x08 → step s = commandWrite v { s with turns := rest, reply := some (h, .written) })

/-- R54: the offsets 0x34 to 0xFC read 0 and ignore writes. -/
def Obligations.ReservedOffsetsReadZero : Prop :=
  ∀ (s : State) (h : Nat) (off : Offset) (v : Word) (rest : List Turn), 0x34 ≤ off.toNat → off.toNat % 4 = 0 →
    (ReadsNext s h off rest → step s = .next { s with turns := rest, reply := some (h, .data 0) }) ∧
    (WritesNext s h off v rest → step s = .next { s with turns := rest, reply := some (h, .written) })

/-- R55: an access that is not admitted gets a bus error, changes no register, and the block goes on. -/
def Obligations.NotAdmittedAccessIsABusError : Prop :=
  ∀ (s : State) (h : Nat) (a : Access) (rest : List Turn), s.turns = .access h a :: rest →
    a.size ≠ 4 ∨ a.off.toNat % 4 ≠ 0 →
    step s = .next { s with turns := rest, reply := some (h, .fault (.busError a.off a.size)) }

/-- R200: while BUSY = 1, a write of GEN_IN, DATA_LO, DATA_HI or CMD is ignored and sets OVR; a STATUS write is performed;
writes of read-only registers and reserved offsets have no effect. -/
def Obligations.WritesWhileBusyAreIgnored : Prop :=
  ∀ (s : State) (h : Nat) (off : Offset) (v : Word) (rest : List Turn), WritesNext s h off v rest → s.job ≠ none →
    (off = 0x0C ∨ off = 0x18 ∨ off = 0x1C ∨ off = 0x08 →
      step s = .next { s with
        turns := rest, reply := some (h, .written), status := { s.status with ovr := true } }) ∧
    (off = 0x04 →
      step s = .next { s with
        turns := rest
        reply := some (h, .written)
        status := { s.status with ovr := s.status.ovr && !v.getLsbD 16 } }) ∧
    (off.toNat % 4 = 0 → off ∉ [0x04, 0x08, 0x0C, 0x18, 0x1C] →
      step s = .next { s with turns := rest, reply := some (h, .written) })

/-- R23, R25: the places and codes of the fields in the word STATUS reads as, every other bit reading 0; and the write of
STATUS: bit 16 set clears OVR, bit 16 clear leaves it, every other bit is ignored, whether or not BUSY is 1. -/
def Obligations.StatusWordLayout : Prop :=
  ∀ s : State,
    (statusWord s).getLsbD 0 = s.job.isSome ∧
    (statusWord s).getLsbD 1 = s.status.codeValid ∧
    (statusWord s).getLsbD 2 = s.status.ok ∧
    (statusWord s).toNat / 2 ^ 4 % 2 ^ 2 =
      (match s.status.result with | .noResult => 0 | .dataSuccess => 1 | .dataError => 2 | .codeError => 3) ∧
    (statusWord s).toNat / 2 ^ 8 % 2 ^ 4 =
      (match s.status.err with
        | .noError => 0 | .illegalCmd => 1 | .genInvalid => 2 | .lenInvalid => 3 | .noCode => 4 | .malformedFrame => 5) ∧
    (statusWord s).getLsbD 16 = s.status.ovr ∧
    (∀ i, i = 3 ∨ i = 6 ∨ i = 7 ∨ (12 ≤ i ∧ i ≤ 15) ∨ 17 ≤ i → (statusWord s).getLsbD i = false) ∧
    (∀ h v rest, WritesNext s h 0x04 v rest →
      step s = .next { s with
        turns := rest
        reply := some (h, .written)
        status := { s.status with ovr := s.status.ovr && !v.getLsbD 16 } })

/-- R57, R51 (the model's PRESUMED lane order and opaque base, log 13): the four lanes of a register form it again, and the
first lane's host address leads back to the register's offset. -/
def Obligations.HostLanesFormTheRegister : Prop :=
  (∀ v : Word, wordOfLanes (laneByte v 0) (laneByte v 1) (laneByte v 2) (laneByte v 3) = v) ∧
  (∀ off : Offset, windowOffset (hostAddress off 0) = some off)

/-! ### Engine, reset, schedules -/

/-- R46: the values the registers read as after reset. -/
def Obligations.ResetValues : Prop :=
  (∀ r : Reg, regValue State.reset r = if r = .param then 0x00402020 else 0) ∧
  State.reset.job = none ∧ State.reset.status.codeValid = false ∧ State.reset.status.ok = false ∧
  State.reset.status.result = .noResult ∧ State.reset.status.err = .noError ∧ State.reset.status.ovr = false

/-- R190: a reset event takes every register to its reset value and abandons a job, from every state; an access presented
meanwhile is not performed: a read is answered 0 and no access gets a bus error. (The pending turns and the counter of draws
are the model's own and stay, log 7.) -/
def Obligations.ResetFromEveryState : Prop :=
  ∀ (s : State) (p : Option (Nat × Access)) (rest : List Turn), s.turns = .reset p :: rest →
    ∃ t, step s = .next t ∧ (∀ r : Reg, regValue t r = regValue State.reset r) ∧ t.status = State.reset.status ∧
      t.job = none ∧ t.turns = rest ∧ t.draws = s.draws ∧ (p = none → t.reply = none) ∧
      (∀ h a, p = some (h, a) →
        (a.dir = .read → t.reply = some (h, .data 0)) ∧ (∀ v, a.dir = .write v → t.reply = some (h, .written)))

/-- R196: the engine has a step exactly when a job is in flight. Its turn without a job changes no register; with one, it is
the completion of that job, after which JOB is NONE and BUSY reads 0. -/
def Obligations.EngineStepEndsTheJob : Prop :=
  ∀ (s : State) (rest : List Turn), s.turns = .engine :: rest →
    (s.job = none → step s = .next { s with turns := rest, reply := none }) ∧
    (∀ j, s.job = some j →
      step s = .next (match j.op with
        | .enc => completeEncode j { s with turns := rest, reply := none }
        | .ver => completeVerify j { s with turns := rest, reply := none }) ∧
      ∃ t, step s = .next t ∧ t.job = none ∧ (statusWord t).getLsbD 0 = false)

/-- R197 (the model's reading of weak fairness, log 2): from every state, whatever turns are pending, a state without a job
is reached after at most one step more than there are turns. -/
def Obligations.EveryJobEnds : Prop :=
  ∀ s : State, ∃ (k : Nat) (t : State), k ≤ s.turns.length + 1 ∧ core.run k s = .next t ∧ t.job = none

/-- R41, R197, R200: the latency of a job does not matter. Whatever accesses come between the issue and the engine's step,
the step writes the results and the verdict it would have written at once, and the generator and the operands are those of
the issue. -/
def Obligations.LatencyDoesNotChangeResults : Prop :=
  ∀ (s : State) (j : Job) (l : List (Nat × Access)) (rest : List Turn), s.job = some j →
    s.turns = l.map (fun p => Turn.access p.1 p.2) ++ .engine :: rest →
    ∃ t, core.run (l.length + 1) s = .next t ∧ t.job = none ∧ t.turns = rest ∧
      t.outLo = (engineStep s).outLo ∧ t.outHi = (engineStep s).outHi ∧ t.outLen = (engineStep s).outLen ∧
      t.chk = (engineStep s).chk ∧ t.rem = (engineStep s).rem ∧
      t.status.ok = (engineStep s).status.ok ∧ t.status.result = (engineStep s).status.result ∧
      t.status.err = (engineStep s).status.err ∧ t.status.codeValid = s.status.codeValid ∧
      t.genIn = s.genIn ∧ t.gen = s.gen ∧ t.genDeg = s.genDeg ∧ t.dataLo = s.dataLo ∧ t.dataHi = s.dataHi

/-- R55, R171, R172: no step stops: no access, no command and no event ends the machine with a fault or a refusal. -/
def Obligations.EveryStepHasANextState : Prop :=
  ∀ s : State, ∃ t, step s = .next t

/-! ### Invariants and histories -/

/-- The reset state meets the invariant of Safety.lean. -/
def Obligations.ResetMeetsTheInvariant : Prop :=
  Inv State.reset

/-- Every step, whatever turn it takes, keeps the invariant of Safety.lean (R24, R31 to R35, R40, R41, R104). -/
def Obligations.EveryStepKeepsTheInvariant : Prop :=
  ∀ s t : State, Inv s → step s = .next t → Inv t

/-- R35: the generator invariant holds at reset and every step keeps it; CODE_VALID goes from 0 to 1 only by a successful
SETGEN and from 1 to 0 only by reset. -/
def Obligations.GeneratorInvariantIsKept : Prop :=
  GeneratorInv State.reset ∧
  (∀ s t : State, GeneratorInv s → step s = .next t → GeneratorInv t) ∧
  (∀ s t : State, step s = .next t →
    (s.status.codeValid = false → t.status.codeValid = true →
      ∃ h rest, WritesNext s h 0x08 0x00000001 rest ∧ s.job = none ∧ 2 ≤ s.genIn.toNat) ∧
    (s.status.codeValid = true → t.status.codeValid = false → ∃ p rest, s.turns = .reset p :: rest))

/-- R104, R121, R122, R141 to R144: in a state that meets the invariant, the job in flight is one R100 gives the divider
for, with a length its command admits. -/
def Obligations.JobsInFlightAreAdmissible : Prop :=
  ∀ (s : State) (j : Job), GeneratorInv s → JobInv s → s.job = some j → j.admissible

/-- R26, R27: GEN and GEN_DEG change only by a SETGEN that passes validation, which writes both, or by reset. -/
def Obligations.GeneratorChangesOnlyBySetgenOrReset : Prop :=
  ∀ s t : State, step s = .next t → t.gen ≠ s.gen ∨ t.genDeg ≠ s.genDeg →
    (∃ p rest, s.turns = .reset p :: rest) ∨
    (∃ h rest, WritesNext s h 0x08 0x00000001 rest ∧ s.job = none ∧ 2 ≤ s.genIn.toNat ∧
      t.gen = s.genIn ∧ t.genDeg.toNat = bitlen s.genIn.toNat - 1)

/-- R43, OVR: set only by a write ignored under BUSY; cleared only by writing STATUS with bit 16 set, and by reset. -/
def Obligations.OvrIsStickyUntilCleared : Prop :=
  ∀ s t : State, step s = .next t →
    (s.status.ovr = false → t.status.ovr = true →
      s.job ≠ none ∧ ∃ h off v rest, WritesNext s h off v rest ∧ off ∈ ([0x08, 0x0C, 0x18, 0x1C] : List Offset)) ∧
    (s.status.ovr = true → t.status.ovr = false →
      (∃ p rest, s.turns = .reset p :: rest) ∨
      (∃ h v rest, WritesNext s h 0x04 v rest ∧ v.getLsbD 16 = true))

/-- R36: the five result registers change only in a step that ends a job, or by reset. -/
def Obligations.ResultsChangeOnlyAtCompletion : Prop :=
  ∀ s t : State, step s = .next t →
    (∃ r : Reg, r.isResult = true ∧ regValue t r ≠ regValue s r) →
    (∃ p rest, s.turns = .reset p :: rest) ∨ (s.job ≠ none ∧ t.job = none)

/-- R43, R171: ERR changes only by a CMD write that is not ignored, or by reset; OK and RESULT by those, or by the
completion of a VERIFY job. -/
def Obligations.VerdictPersists : Prop :=
  ∀ s t : State, step s = .next t →
    (t.status.err ≠ s.status.err →
      (∃ p rest, s.turns = .reset p :: rest) ∨ (s.job = none ∧ ∃ h w rest, WritesNext s h 0x08 w rest)) ∧
    (t.status.ok ≠ s.status.ok ∨ t.status.result ≠ s.status.result →
      (∃ p rest, s.turns = .reset p :: rest) ∨ (s.job = none ∧ ∃ h w rest, WritesNext s h 0x08 w rest) ∨
      (∃ j, s.job = some j ∧ j.op = .ver ∧ t.job = none))

/-- R175: the block does not identify the host of an access: the same access by another host leads to the same state, but
that the answer goes to that host. -/
def Obligations.HostsAreNotIdentified : Prop :=
  ∀ (s : State) (h h' : Nat) (a : Access) (rest : List Turn),
    ∃ t, step { s with turns := .access h a :: rest } = .next t ∧
      step { s with turns := .access h' a :: rest } =
        .next { t with reply := t.reply.map fun p => (h', p.2) }

/-- R202: an access that keeps the software rule sets no OVR and reads no unspecified value. -/
def Obligations.WaitRuleAvoidsHazards : Prop :=
  ∀ (s t : State) (h : Nat) (a : Access) (rest : List Turn), s.turns = .access h a :: rest → a.keepsWaitRule s →
    step s = .next t → (s.status.ovr = false → t.status.ovr = false) ∧ t.draws = s.draws

/-! ### Bit strings and the host environment -/

/-- R8: the string of a pair has exactly n characters and the pair's value; the value of a string is `Σ b_k · 2^(n-k)`, its
first bit the most significant, so a leading zero does not change it; the string of a concatenation is the concatenation
of the strings; and "1101" is the pair (13, 4). -/
def Obligations.BitStringsRoundTrip : Prop :=
  (∀ v n : Nat, (bits v n).length = n) ∧
  (∀ v n : Nat, v < 2 ^ n → val (bits v n) = v) ∧
  (∀ (b : Bool) (l : List Bool), val (b :: l) = b.toNat * 2 ^ l.length + val l) ∧ val [] = 0 ∧
  (∀ l : List Bool, val (false :: l) = val l) ∧
  bits 13 4 = [true, true, false, true] ∧
  (∀ a na b nb : Nat, b < 2 ^ nb →
    bits (concatPair (a, na) (b, nb)).1 (concatPair (a, na) (b, nb)).2 = bits a na ++ bits b nb)

/-- R183, R184: the sender on an idle block with a generator, alone on it or with the receiver (R180), whatever the channel
does with each frame: it sends at most 3 frames, all the frame of the original payload; three DATA_ERRORs end in exhaustion
with exactly 3 sends; DATA_SUCCESS, CODE_ERROR and a channel failure at the first send end it with one; RetryState is 0 at
every end. (The host's accesses arrive in program order, HOST_ORDERED, log 11; the schedule is that of log 16, the bound
that of log 22.) -/
def Obligations.SenderSendsAtMostThree : Prop :=
  ∀ (b : Blocks) (h h' P n : Nat) (l : List Delivery),
    b.sender.job = none → b.sender.status.codeValid = true → GeneratorInv b.sender → 1 ≤ n → n ≤ 32 → P < 2 ^ n →
    let G := b.sender.gen.toNat
    let r := b.sender.genDeg.toNat
    let run := fun ds : List Delivery => sendPayload 3 h h' P n ds b
    let bad := Delivery.answers (.token .dataError)
    (run l).sent.length ≤ 3 ∧
    (∀ f ∈ (run l).sent, f = bits P n ++ bits (checksum P n G r) r) ∧
    ((run l).result ≠ none → (run l).retry = 0 ∧ (run l).phase = .idle) ∧
    (run (bad :: bad :: bad :: l)).result = some .exhausted ∧ (run (bad :: bad :: bad :: l)).sent.length = 3 ∧
    (run (.answers (.token .dataSuccess) :: l)).result = some .success ∧
    (run (.answers (.token .dataSuccess) :: l)).sent.length = 1 ∧
    (run (.answers (.token .codeError) :: l)).result = some .codeError ∧
    (run (.answers (.token .codeError) :: l)).sent.length = 1 ∧
    (run (.answers .channelError :: l)).result = some .connectivityFailure ∧
    (run (.answers .channelError :: l)).sent.length = 1

/-- R182: the token a receiver on an idle block answers with. A string of more than 64 characters gives DATA_ERROR; else,
without a generator, CODE_ERROR; else a string shorter than the degree gives DATA_ERROR, and any other DATA_SUCCESS exactly
when its remainder is 0 and DATA_ERROR when it is not. (The host's accesses arrive in its
program order, HOST_ORDERED, log 11; for the schedule and for strings of more than 127 characters see log 16.) -/
def Obligations.ReceiverAnswersTheVerdict : Prop :=
  ∀ (s : State) (h : Nat) (str : List Bool), s.job = none → GeneratorInv s →
    (64 < str.length → (receive h str s).2 = some .dataError) ∧
    (str.length ≤ 64 → s.status.codeValid = false → (receive h str s).2 = some .codeError) ∧
    (str.length ≤ 64 → s.status.codeValid = true → str.length < s.genDeg.toNat →
      (receive h str s).2 = some .dataError) ∧
    (str.length ≤ 64 → s.status.codeValid = true → s.genDeg.toNat ≤ str.length →
      (receive h str s).2 =
        if pmod (val str) str.length s.gen.toNat s.genDeg.toNat = 0 then some .dataSuccess else some .dataError)

/-- R180, R181, R128: a sender's block and a receiver's block that hold the same generator: the frame the sender sends of
any payload of 1 to 32 bits is answered DATA_SUCCESS. And the whole of it, on one idle block or on two: both hosts configure
the same generator value of 2 or more with SETGEN, whatever the blocks held; a frame that arrives as it was sent ends in
SUCCESS after one send; a string the generator rejects in its place is answered DATA_ERROR, and the payload, encoded anew
and now arriving, ends in SUCCESS after two. (Both hosts' accesses arrive in program order, HOST_ORDERED, log 11; the
schedule is that of log 16.) -/
def Obligations.SentFrameIsAccepted : Prop :=
  (∀ (s s' : State) (h h' P n : Nat), s.job = none → s'.job = none →
    s.status.codeValid = true → s'.status.codeValid = true → GeneratorInv s →
    s.gen = s'.gen → s.genDeg = s'.genDeg → 1 ≤ n → n ≤ 32 → P < 2 ^ n →
    (receive h' (outString (runOps h (encOps (BitVec.ofNat 64 P) n) s).block) s').2 = some .dataSuccess) ∧
  (∀ (b : Blocks) (h h' P n : Nat) (g : Word) (str : List Bool) (l : List Delivery),
    b.sender.job = none → b.receiver.job = none → 2 ≤ g.toNat → 1 ≤ n → n ≤ 32 → P < 2 ^ n →
    let r := bitlen g.toNat - 1
    let run := fun ds : List Delivery => session 3 { host := h, code := g } { host := h', code := g } P n ds b
    ((run (.intact :: l)).result = some .success ∧
      (run (.intact :: l)).sent = [bits P n ++ bits (checksum P n g.toNat r) r]) ∧
    (64 < str.length ∨ str.length < r ∨ pmod (val str) str.length g.toNat r ≠ 0 →
      (run (.altered str :: .intact :: l)).result = some .success ∧
      (run (.altered str :: .intact :: l)).sent =
        [bits P n ++ bits (checksum P n g.toNat r) r, bits P n ++ bits (checksum P n g.toNat r) r]))

/-- R76: what the host notation means. The command words; and the next move of a program at each operation, its values
constants or temporaries that are set: `WR` is the write of R56 and `RD` keeps the value of R53 in its temporary and no
other, and both go on; `POLL` reads once more and goes on exactly when the value matches. By the model's choice a program
stops at an offset that is no multiple of 4, where the host gets a bus error (R55; log 25), and, with no access made, at a
temporary that no `RD` has set (log 27). -/
def Obligations.HostNotationMeansItsAccesses : Prop :=
  encode .setgen = 0x00000001 ∧
  (∀ n ≤ 127, encode (.encode n) = 0x00000002 ||| (BitVec.ofNat 32 n <<< 8) ∧
    encode (.verify n) = 0x00000003 ||| (BitVec.ofNat 32 n <<< 8)) ∧
  (∀ (x : HostRun) (v : Word) (t : Nat), x.value (.const v) = .ok v ∧
    (∀ w, x.temp t = some w → x.value (.temp t) = .ok w) ∧ (x.temp t = none → x.value (.temp t) = .error t)) ∧
  (∀ (h : Nat) (x : HostRun) (rest : List HostOp) (off : Offset), x.error = none →
    (off.toNat % 4 = 0 →
      (∀ a v, x.todo = .wr off a :: rest → x.value a = .ok v →
        ∃ b, memWrite off v (answer h .written x.block) = .next b ∧ x.own h = { x with todo := rest, block := b }) ∧
      (∀ t, x.todo = .rd off t :: rest →
        (x.own h).todo = rest ∧ (x.own h).error = none ∧
        (x.own h).block = answer h (.data (memRead off x.block).1) (memRead off x.block).2 ∧
        (x.own h).temp t = some (memRead off x.block).1 ∧ (∀ u, u ≠ t → (x.own h).temp u = x.temp u)) ∧
      (∀ a c m v, x.todo = .poll off a c :: rest → x.value a = .ok m → x.value c = .ok v →
        x.own h = { x with
          todo := if (memRead off x.block).1 &&& m = v then rest else x.todo
          block := answer h (.data (memRead off x.block).1) (memRead off x.block).2 })) ∧
    (off.toNat % 4 ≠ 0 → ∀ op act, x.todo = op :: rest → x.resolve op = .ok act → act.access.off = off →
      x.own h = { x with
        error := some (.fault (.busError off 4)), block := answer h (.fault (.busError off 4)) x.block } ∧
      (x.own h).own h = x.own h) ∧
    (∀ a t, x.todo = .wr off a :: rest → x.value a = .error t →
      x.own h = { x with error := some (.unsetTemporary t) } ∧ (x.own h).own h = x.own h) ∧
    (∀ a c t, x.todo = .poll off a c :: rest → x.value a = .error t ∨ (∃ m, x.value a = .ok m) ∧ x.value c = .error t →
      x.own h = { x with error := some (.unsetTemporary t) } ∧ (x.own h).own h = x.own h))

/-- R77, R197: the programs `ENC v, n` and `VER v, n` of a host on an idle block, under any list of moves in which the other
agents only complete jobs and read: the program is never stopped; wherever it stands, some moves more bring it to its end;
and at its end no job is in flight and every register reads as under the schedule of log 16. (The host's accesses arrive in
program order, HOST_ORDERED, log 11.) -/
def Obligations.HostProgramsDoNotDependOnLatency : Prop :=
  ∀ (s : State) (h : Nat) (v : Pair) (n : Nat) (ops : List HostOp) (moves : List Move),
    s.job = none → ops = encOps v n ∨ ops = verOps v n →
    (∀ m ∈ moves, m = .own ∨ m = .other .engine ∨ ∃ k a, m = .other (.access k a) ∧ a.dir = .read) →
    let x := (HostRun.start ops s).play h moves
    x.error = none ∧
    (∃ more : List Move, (∀ m ∈ more, m = .own ∨ m = .other .engine) ∧ (x.play h more).ended = true) ∧
    (x.ended = true → x.block.job = none ∧ ∀ r : Reg, regValue x.block r = regValue (runOps h ops s).block r)
end

