-- ==== Sys2Proof/Laws/BitString.lean ====
section
/-! SUPPORT. Lemmas about bit lengths, bit strings, and the numbers the register pairs stand for. -/

namespace Sys2Proof.Machine

@[simp] theorem bitlen_zero : bitlen 0 = 0 := rfl

theorem bitlen_of_pos {v : Nat} (h : v ≠ 0) : bitlen v = Nat.log2 v + 1 := by simp [bitlen, h]

/-- The top bit of a nonzero value stands at bitlen - 1. -/
theorem two_pow_bitlen_pred_le {v : Nat} (h : v ≠ 0) : 2 ^ (bitlen v - 1) ≤ v := by
  rw [bitlen_of_pos h]; exact Nat.log2_self_le h

theorem lt_two_pow_bitlen (v : Nat) : v < 2 ^ bitlen v := by
  by_cases h : v = 0
  · simp [h]
  · rw [bitlen_of_pos h]; exact Nat.lt_log2_self

theorem bitlen_le_of_lt {v k : Nat} (h : v < 2 ^ k) : bitlen v ≤ k := by
  by_cases hv : v = 0
  · simp [hv]
  · rw [bitlen_of_pos hv]; exact (Nat.log2_lt hv).2 h

theorem two_le_bitlen {v : Nat} (h : 2 ≤ v) : 2 ≤ bitlen v := by
  rw [bitlen_of_pos (by omega)]
  have : 1 ≤ Nat.log2 v := (Nat.le_log2 (by omega)).2 (by simpa using h)
  omega

@[simp] theorem bits_zero (v : Nat) : bits v 0 = [] := rfl

theorem bits_succ (v n : Nat) : bits v (n + 1) = v.testBit n :: bits v n := rfl

/-- The fold of `val` from an accumulator: the accumulator moves up by the length of the string. -/
theorem foldl_bits (l : List Bool) (a : Nat) :
    l.foldl (fun a b => 2 * a + b.toNat) a = a * 2 ^ l.length + val l := by
  induction l generalizing a with
  | nil => simp [val]
  | cons b l ih =>
    simp only [List.foldl_cons, val, List.length_cons]
    rw [ih, ih (2 * 0 + b.toNat), pow_succ]
    ring

theorem val_cons (b : Bool) (l : List Bool) : val (b :: l) = b.toNat * 2 ^ l.length + val l := by
  simpa [val] using foldl_bits l b.toNat

@[simp] theorem val_nil : val [] = 0 := rfl

theorem val_lt (l : List Bool) : val l < 2 ^ l.length := by
  induction l with
  | nil => simp
  | cons b l ih =>
    rw [val_cons, List.length_cons, pow_succ]
    cases b <;> simp <;> omega

theorem dataPair_toNat (s : State) : (dataPair s).toNat = s.dataHi.toNat * 2 ^ 32 + s.dataLo.toNat := by
  rw [dataPair, BitVec.toNat_append, ← Nat.shiftLeft_add_eq_or_of_lt s.dataLo.isLt, Nat.shiftLeft_eq]

theorem outPair_toNat (s : State) : (outPair s).toNat = s.outHi.toNat * 2 ^ 32 + s.outLo.toNat := by
  rw [outPair, BitVec.toNat_append, ← Nat.shiftLeft_add_eq_or_of_lt s.outLo.isLt, Nat.shiftLeft_eq]

/-- The operand of a command, as a number: DATA mod 2^n (R30). -/
theorem operand_toNat (s : State) (n : Nat) : (operand s n).toNat = (dataPair s).toNat % 2 ^ n := by
  rw [operand, BitVec.toNat_ofNat]
  exact Nat.mod_eq_of_lt (lt_of_le_of_lt (Nat.mod_le _ _) (dataPair s).isLt)

theorem operand_lt (s : State) (n : Nat) : (operand s n).toNat < 2 ^ n := by
  rw [operand_toNat]; exact Nat.mod_lt _ (Nat.two_pow_pos n)

/-- The operand depends on the operand registers only. -/
theorem operand_congr {s t : State} (n : Nat) (hl : t.dataLo = s.dataLo) (hh : t.dataHi = s.dataHi) :
    operand t n = operand s n := by
  simp [operand, dataPair, hl, hh]

@[simp] theorem loWord_toNat (v : Nat) : (loWord v).toNat = v % 2 ^ 32 := by simp [loWord]

theorem hiWord_toNat {v : Nat} (h : v < 2 ^ 64) : (hiWord v).toNat = v / 2 ^ 32 := by
  rw [hiWord, BitVec.toNat_ofNat, Nat.shiftRight_eq_div_pow]
  exact Nat.mod_eq_of_lt (by omega)

theorem regAt_offset (r : Reg) : regAt r.offset = some r := by cases r <;> decide

theorem offset_of_regAt {off : Offset} {r : Reg} (h : regAt off = some r) : off = r.offset := by
  have := List.find?_some h
  exact (by simpa using this : r.offset = off).symm

/-- An offset that is the offset of no register has none (R54). -/
theorem regAt_eq_none {off : Offset} (h : ∀ r : Reg, off ≠ r.offset) : regAt off = none := by
  cases hr : regAt off with
  | none => rfl
  | some r => exact absurd (offset_of_regAt hr) (h r)

end Sys2Proof.Machine
end

