-- ==== Sys2Proof/Laws/Divider.lean ====
section
/-! SUPPORT. Lemmas about the division loop of R100: how it unrolls at either end, and what one iteration does. -/

namespace Sys2Proof.Machine

@[simp] theorem divideFrom_zero (D G r R : Nat) : divideFrom D G r 0 R = R := rfl

theorem divideFrom_succ (D G r i R : Nat) :
    divideFrom D G r (i + 1) R = divideFrom D G r i (reduce G r (shiftIn D i R)) := rfl

@[simp] theorem pmod_zero_len (D G r : Nat) : pmod D 0 G r = 0 := rfl

theorem shiftIn_eq (D i R : Nat) : shiftIn D i R = 2 * R + (D.testBit i).toNat := by
  unfold shiftIn
  have h : (D.testBit i).toNat < 2 ^ 1 := by cases D.testBit i <;> simp
  rw [Nat.shiftLeft_eq, pow_one, mul_comm]
  cases hb : D.testBit i
  · simp
  · apply Nat.eq_of_testBit_eq
    intro k
    cases k with
    | zero => simp
    | succ k => simp [Nat.testBit_succ, Nat.mul_add_div]

/-- One shift keeps a register of r bits below r + 1 bits (R102). -/
theorem shiftIn_lt {D i R r : Nat} (h : R < 2 ^ r) : shiftIn D i R < 2 ^ (r + 1) := by
  rw [shiftIn_eq, pow_succ]
  cases D.testBit i <;> simp <;> omega

/-- A register below 2^r is left alone by the conditional XOR. -/
theorem reduce_of_lt {G r R : Nat} (h : R < 2 ^ r) : reduce G r R = R := by
  simp [reduce, Nat.testBit_lt_two_pow h]

@[simp] theorem reduce_zero (G r : Nat) : reduce G r 0 = 0 := by simp [reduce]

/-- The loop over i + k bits is the loop over the leading bits followed by the loop over the last k. -/
theorem divideFrom_add (D G r k i R : Nat) :
    divideFrom D G r (i + k) R = divideFrom D G r k (divideFrom (D >>> k) G r i R) := by
  induction i generalizing R with
  | zero => simp
  | succ i ih =>
    rw [Nat.add_right_comm, divideFrom_succ, ih, divideFrom_succ]
    simp [shiftIn, Nat.testBit_shiftRight, Nat.add_comm]

/-- The remainder by the last dividend bit: divide the rest, shift the bit in, reduce once more (R100, R101). -/
theorem pmod_succ (D n G r : Nat) : pmod D (n + 1) G r = reduce G r (shiftIn D 0 (pmod (D >>> 1) n G r)) := by
  rw [pmod, divideFrom_add]; rfl

end Sys2Proof.Machine
end

