-- ==== Sys2Proof/Laws/State.lean ====
section
/-! SUPPORT. What each named update of State leaves in each field: one lemma per field per update, so that no later proof
unfolds an update. -/

namespace Sys2Proof.Machine

variable (s : State)

@[simp] theorem setOvr_status : (setOvr s).status = { s.status with ovr := true } := rfl
@[simp] theorem setOvr_genIn : (setOvr s).genIn = s.genIn := rfl
@[simp] theorem setOvr_gen : (setOvr s).gen = s.gen := rfl
@[simp] theorem setOvr_genDeg : (setOvr s).genDeg = s.genDeg := rfl
@[simp] theorem setOvr_dataLo : (setOvr s).dataLo = s.dataLo := rfl
@[simp] theorem setOvr_dataHi : (setOvr s).dataHi = s.dataHi := rfl
@[simp] theorem setOvr_outLo : (setOvr s).outLo = s.outLo := rfl
@[simp] theorem setOvr_outHi : (setOvr s).outHi = s.outHi := rfl
@[simp] theorem setOvr_outLen : (setOvr s).outLen = s.outLen := rfl
@[simp] theorem setOvr_chk : (setOvr s).chk = s.chk := rfl
@[simp] theorem setOvr_rem : (setOvr s).rem = s.rem := rfl
@[simp] theorem setOvr_job : (setOvr s).job = s.job := rfl
@[simp] theorem setOvr_turns : (setOvr s).turns = s.turns := rfl
@[simp] theorem setOvr_reply : (setOvr s).reply = s.reply := rfl
@[simp] theorem setOvr_draws : (setOvr s).draws = s.draws := rfl

@[simp] theorem clearOvr_status : (clearOvr s).status = { s.status with ovr := false } := rfl
@[simp] theorem clearOvr_genIn : (clearOvr s).genIn = s.genIn := rfl
@[simp] theorem clearOvr_gen : (clearOvr s).gen = s.gen := rfl
@[simp] theorem clearOvr_genDeg : (clearOvr s).genDeg = s.genDeg := rfl
@[simp] theorem clearOvr_dataLo : (clearOvr s).dataLo = s.dataLo := rfl
@[simp] theorem clearOvr_dataHi : (clearOvr s).dataHi = s.dataHi := rfl
@[simp] theorem clearOvr_outLo : (clearOvr s).outLo = s.outLo := rfl
@[simp] theorem clearOvr_outHi : (clearOvr s).outHi = s.outHi := rfl
@[simp] theorem clearOvr_outLen : (clearOvr s).outLen = s.outLen := rfl
@[simp] theorem clearOvr_chk : (clearOvr s).chk = s.chk := rfl
@[simp] theorem clearOvr_rem : (clearOvr s).rem = s.rem := rfl
@[simp] theorem clearOvr_job : (clearOvr s).job = s.job := rfl
@[simp] theorem clearOvr_turns : (clearOvr s).turns = s.turns := rfl
@[simp] theorem clearOvr_reply : (clearOvr s).reply = s.reply := rfl
@[simp] theorem clearOvr_draws : (clearOvr s).draws = s.draws := rfl

@[simp] theorem issueClear_status : (issueClear s).status = { s.status with ok := false, result := .noResult, err := .noError } :=
  rfl
@[simp] theorem issueClear_genIn : (issueClear s).genIn = s.genIn := rfl
@[simp] theorem issueClear_gen : (issueClear s).gen = s.gen := rfl
@[simp] theorem issueClear_genDeg : (issueClear s).genDeg = s.genDeg := rfl
@[simp] theorem issueClear_dataLo : (issueClear s).dataLo = s.dataLo := rfl
@[simp] theorem issueClear_dataHi : (issueClear s).dataHi = s.dataHi := rfl
@[simp] theorem issueClear_outLo : (issueClear s).outLo = s.outLo := rfl
@[simp] theorem issueClear_outHi : (issueClear s).outHi = s.outHi := rfl
@[simp] theorem issueClear_outLen : (issueClear s).outLen = s.outLen := rfl
@[simp] theorem issueClear_chk : (issueClear s).chk = s.chk := rfl
@[simp] theorem issueClear_rem : (issueClear s).rem = s.rem := rfl
@[simp] theorem issueClear_job : (issueClear s).job = s.job := rfl
@[simp] theorem issueClear_turns : (issueClear s).turns = s.turns := rfl
@[simp] theorem issueClear_reply : (issueClear s).reply = s.reply := rfl
@[simp] theorem issueClear_draws : (issueClear s).draws = s.draws := rfl

@[simp] theorem setErr_status (e : ErrCode) : (setErr e s).status = { s.status with err := e } := rfl
@[simp] theorem setErr_genIn (e : ErrCode) : (setErr e s).genIn = s.genIn := rfl
@[simp] theorem setErr_gen (e : ErrCode) : (setErr e s).gen = s.gen := rfl
@[simp] theorem setErr_genDeg (e : ErrCode) : (setErr e s).genDeg = s.genDeg := rfl
@[simp] theorem setErr_dataLo (e : ErrCode) : (setErr e s).dataLo = s.dataLo := rfl
@[simp] theorem setErr_dataHi (e : ErrCode) : (setErr e s).dataHi = s.dataHi := rfl
@[simp] theorem setErr_outLo (e : ErrCode) : (setErr e s).outLo = s.outLo := rfl
@[simp] theorem setErr_outHi (e : ErrCode) : (setErr e s).outHi = s.outHi := rfl
@[simp] theorem setErr_outLen (e : ErrCode) : (setErr e s).outLen = s.outLen := rfl
@[simp] theorem setErr_chk (e : ErrCode) : (setErr e s).chk = s.chk := rfl
@[simp] theorem setErr_rem (e : ErrCode) : (setErr e s).rem = s.rem := rfl
@[simp] theorem setErr_job (e : ErrCode) : (setErr e s).job = s.job := rfl
@[simp] theorem setErr_turns (e : ErrCode) : (setErr e s).turns = s.turns := rfl
@[simp] theorem setErr_reply (e : ErrCode) : (setErr e s).reply = s.reply := rfl
@[simp] theorem setErr_draws (e : ErrCode) : (setErr e s).draws = s.draws := rfl

@[simp] theorem setResult_status (c : ResultCode) : (setResult c s).status = { s.status with result := c } := rfl
@[simp] theorem setResult_genIn (c : ResultCode) : (setResult c s).genIn = s.genIn := rfl
@[simp] theorem setResult_gen (c : ResultCode) : (setResult c s).gen = s.gen := rfl
@[simp] theorem setResult_genDeg (c : ResultCode) : (setResult c s).genDeg = s.genDeg := rfl
@[simp] theorem setResult_dataLo (c : ResultCode) : (setResult c s).dataLo = s.dataLo := rfl
@[simp] theorem setResult_dataHi (c : ResultCode) : (setResult c s).dataHi = s.dataHi := rfl
@[simp] theorem setResult_outLo (c : ResultCode) : (setResult c s).outLo = s.outLo := rfl
@[simp] theorem setResult_outHi (c : ResultCode) : (setResult c s).outHi = s.outHi := rfl
@[simp] theorem setResult_outLen (c : ResultCode) : (setResult c s).outLen = s.outLen := rfl
@[simp] theorem setResult_chk (c : ResultCode) : (setResult c s).chk = s.chk := rfl
@[simp] theorem setResult_rem (c : ResultCode) : (setResult c s).rem = s.rem := rfl
@[simp] theorem setResult_job (c : ResultCode) : (setResult c s).job = s.job := rfl
@[simp] theorem setResult_turns (c : ResultCode) : (setResult c s).turns = s.turns := rfl
@[simp] theorem setResult_reply (c : ResultCode) : (setResult c s).reply = s.reply := rfl
@[simp] theorem setResult_draws (c : ResultCode) : (setResult c s).draws = s.draws := rfl

@[simp] theorem raiseCmdError_status (e : ErrCode) : (raiseCmdError e s).status = { s.status with err := e } := rfl
@[simp] theorem raiseCmdError_genIn (e : ErrCode) : (raiseCmdError e s).genIn = s.genIn := rfl
@[simp] theorem raiseCmdError_gen (e : ErrCode) : (raiseCmdError e s).gen = s.gen := rfl
@[simp] theorem raiseCmdError_genDeg (e : ErrCode) : (raiseCmdError e s).genDeg = s.genDeg := rfl
@[simp] theorem raiseCmdError_dataLo (e : ErrCode) : (raiseCmdError e s).dataLo = s.dataLo := rfl
@[simp] theorem raiseCmdError_dataHi (e : ErrCode) : (raiseCmdError e s).dataHi = s.dataHi := rfl
@[simp] theorem raiseCmdError_outLo (e : ErrCode) : (raiseCmdError e s).outLo = s.outLo := rfl
@[simp] theorem raiseCmdError_outHi (e : ErrCode) : (raiseCmdError e s).outHi = s.outHi := rfl
@[simp] theorem raiseCmdError_outLen (e : ErrCode) : (raiseCmdError e s).outLen = s.outLen := rfl
@[simp] theorem raiseCmdError_chk (e : ErrCode) : (raiseCmdError e s).chk = s.chk := rfl
@[simp] theorem raiseCmdError_rem (e : ErrCode) : (raiseCmdError e s).rem = s.rem := rfl
@[simp] theorem raiseCmdError_job (e : ErrCode) : (raiseCmdError e s).job = s.job := rfl
@[simp] theorem raiseCmdError_turns (e : ErrCode) : (raiseCmdError e s).turns = s.turns := rfl
@[simp] theorem raiseCmdError_reply (e : ErrCode) : (raiseCmdError e s).reply = s.reply := rfl
@[simp] theorem raiseCmdError_draws (e : ErrCode) : (raiseCmdError e s).draws = s.draws := rfl

@[simp] theorem setVerdict_genIn (m : Nat) : (setVerdict m s).genIn = s.genIn := by unfold setVerdict; split <;> rfl
@[simp] theorem setVerdict_gen (m : Nat) : (setVerdict m s).gen = s.gen := by unfold setVerdict; split <;> rfl
@[simp] theorem setVerdict_genDeg (m : Nat) : (setVerdict m s).genDeg = s.genDeg :=
  by unfold setVerdict; split <;> rfl
@[simp] theorem setVerdict_dataLo (m : Nat) : (setVerdict m s).dataLo = s.dataLo :=
  by unfold setVerdict; split <;> rfl
@[simp] theorem setVerdict_dataHi (m : Nat) : (setVerdict m s).dataHi = s.dataHi :=
  by unfold setVerdict; split <;> rfl
@[simp] theorem setVerdict_outLo (m : Nat) : (setVerdict m s).outLo = s.outLo := by unfold setVerdict; split <;> rfl
@[simp] theorem setVerdict_outHi (m : Nat) : (setVerdict m s).outHi = s.outHi := by unfold setVerdict; split <;> rfl
@[simp] theorem setVerdict_outLen (m : Nat) : (setVerdict m s).outLen = s.outLen :=
  by unfold setVerdict; split <;> rfl
@[simp] theorem setVerdict_chk (m : Nat) : (setVerdict m s).chk = s.chk := by unfold setVerdict; split <;> rfl
@[simp] theorem setVerdict_rem (m : Nat) : (setVerdict m s).rem = s.rem := by unfold setVerdict; split <;> rfl
@[simp] theorem setVerdict_job (m : Nat) : (setVerdict m s).job = s.job := by unfold setVerdict; split <;> rfl
@[simp] theorem setVerdict_turns (m : Nat) : (setVerdict m s).turns = s.turns := by unfold setVerdict; split <;> rfl
@[simp] theorem setVerdict_reply (m : Nat) : (setVerdict m s).reply = s.reply := by unfold setVerdict; split <;> rfl
@[simp] theorem setVerdict_draws (m : Nat) : (setVerdict m s).draws = s.draws := by unfold setVerdict; split <;> rfl

@[simp] theorem startJob_status (op : JobOp) (n : Nat) : (startJob op n s).status = s.status := rfl
@[simp] theorem startJob_genIn (op : JobOp) (n : Nat) : (startJob op n s).genIn = s.genIn := rfl
@[simp] theorem startJob_gen (op : JobOp) (n : Nat) : (startJob op n s).gen = s.gen := rfl
@[simp] theorem startJob_genDeg (op : JobOp) (n : Nat) : (startJob op n s).genDeg = s.genDeg := rfl
@[simp] theorem startJob_dataLo (op : JobOp) (n : Nat) : (startJob op n s).dataLo = s.dataLo := rfl
@[simp] theorem startJob_dataHi (op : JobOp) (n : Nat) : (startJob op n s).dataHi = s.dataHi := rfl
@[simp] theorem startJob_outLo (op : JobOp) (n : Nat) : (startJob op n s).outLo = s.outLo := rfl
@[simp] theorem startJob_outHi (op : JobOp) (n : Nat) : (startJob op n s).outHi = s.outHi := rfl
@[simp] theorem startJob_outLen (op : JobOp) (n : Nat) : (startJob op n s).outLen = s.outLen := rfl
@[simp] theorem startJob_chk (op : JobOp) (n : Nat) : (startJob op n s).chk = s.chk := rfl
@[simp] theorem startJob_rem (op : JobOp) (n : Nat) : (startJob op n s).rem = s.rem := rfl
@[simp] theorem startJob_job (op : JobOp) (n : Nat) : (startJob op n s).job = some { op := op, n := n, d := operand s n, g := s.gen, r := s.genDeg } :=
  rfl
@[simp] theorem startJob_turns (op : JobOp) (n : Nat) : (startJob op n s).turns = s.turns := rfl
@[simp] theorem startJob_reply (op : JobOp) (n : Nat) : (startJob op n s).reply = s.reply := rfl
@[simp] theorem startJob_draws (op : JobOp) (n : Nat) : (startJob op n s).draws = s.draws := rfl

@[simp] theorem endJob_status : (endJob s).status = s.status := rfl
@[simp] theorem endJob_genIn : (endJob s).genIn = s.genIn := rfl
@[simp] theorem endJob_gen : (endJob s).gen = s.gen := rfl
@[simp] theorem endJob_genDeg : (endJob s).genDeg = s.genDeg := rfl
@[simp] theorem endJob_dataLo : (endJob s).dataLo = s.dataLo := rfl
@[simp] theorem endJob_dataHi : (endJob s).dataHi = s.dataHi := rfl
@[simp] theorem endJob_outLo : (endJob s).outLo = s.outLo := rfl
@[simp] theorem endJob_outHi : (endJob s).outHi = s.outHi := rfl
@[simp] theorem endJob_outLen : (endJob s).outLen = s.outLen := rfl
@[simp] theorem endJob_chk : (endJob s).chk = s.chk := rfl
@[simp] theorem endJob_rem : (endJob s).rem = s.rem := rfl
@[simp] theorem endJob_job : (endJob s).job = none := rfl
@[simp] theorem endJob_turns : (endJob s).turns = s.turns := rfl
@[simp] theorem endJob_reply : (endJob s).reply = s.reply := rfl
@[simp] theorem endJob_draws : (endJob s).draws = s.draws := rfl

@[simp] theorem writeResults_status (out len chk rem : Nat) : (writeResults out len chk rem s).status = s.status :=
  rfl
@[simp] theorem writeResults_genIn (out len chk rem : Nat) : (writeResults out len chk rem s).genIn = s.genIn := rfl
@[simp] theorem writeResults_gen (out len chk rem : Nat) : (writeResults out len chk rem s).gen = s.gen := rfl
@[simp] theorem writeResults_genDeg (out len chk rem : Nat) : (writeResults out len chk rem s).genDeg = s.genDeg :=
  rfl
@[simp] theorem writeResults_dataLo (out len chk rem : Nat) : (writeResults out len chk rem s).dataLo = s.dataLo :=
  rfl
@[simp] theorem writeResults_dataHi (out len chk rem : Nat) : (writeResults out len chk rem s).dataHi = s.dataHi :=
  rfl
@[simp] theorem writeResults_outLo (out len chk rem : Nat) : (writeResults out len chk rem s).outLo = loWord out :=
  rfl
@[simp] theorem writeResults_outHi (out len chk rem : Nat) : (writeResults out len chk rem s).outHi = hiWord out :=
  rfl
@[simp] theorem writeResults_outLen (out len chk rem : Nat) : (writeResults out len chk rem s).outLen = BitVec.ofNat 7 len :=
  rfl
@[simp] theorem writeResults_chk (out len chk rem : Nat) : (writeResults out len chk rem s).chk = BitVec.ofNat 32 chk :=
  rfl
@[simp] theorem writeResults_rem (out len chk rem : Nat) : (writeResults out len chk rem s).rem = BitVec.ofNat 32 rem :=
  rfl
@[simp] theorem writeResults_job (out len chk rem : Nat) : (writeResults out len chk rem s).job = s.job := rfl
@[simp] theorem writeResults_turns (out len chk rem : Nat) : (writeResults out len chk rem s).turns = s.turns := rfl
@[simp] theorem writeResults_reply (out len chk rem : Nat) : (writeResults out len chk rem s).reply = s.reply := rfl
@[simp] theorem writeResults_draws (out len chk rem : Nat) : (writeResults out len chk rem s).draws = s.draws := rfl

@[simp] theorem installGenerator_status (v : Word) : (installGenerator v s).status = { s.status with codeValid := true } :=
  rfl
@[simp] theorem installGenerator_genIn (v : Word) : (installGenerator v s).genIn = s.genIn := rfl
@[simp] theorem installGenerator_gen (v : Word) : (installGenerator v s).gen = v := rfl
@[simp] theorem installGenerator_genDeg (v : Word) : (installGenerator v s).genDeg = BitVec.ofNat 5 (bitlen v.toNat - 1) :=
  rfl
@[simp] theorem installGenerator_dataLo (v : Word) : (installGenerator v s).dataLo = s.dataLo := rfl
@[simp] theorem installGenerator_dataHi (v : Word) : (installGenerator v s).dataHi = s.dataHi := rfl
@[simp] theorem installGenerator_outLo (v : Word) : (installGenerator v s).outLo = s.outLo := rfl
@[simp] theorem installGenerator_outHi (v : Word) : (installGenerator v s).outHi = s.outHi := rfl
@[simp] theorem installGenerator_outLen (v : Word) : (installGenerator v s).outLen = s.outLen := rfl
@[simp] theorem installGenerator_chk (v : Word) : (installGenerator v s).chk = s.chk := rfl
@[simp] theorem installGenerator_rem (v : Word) : (installGenerator v s).rem = s.rem := rfl
@[simp] theorem installGenerator_job (v : Word) : (installGenerator v s).job = s.job := rfl
@[simp] theorem installGenerator_turns (v : Word) : (installGenerator v s).turns = s.turns := rfl
@[simp] theorem installGenerator_reply (v : Word) : (installGenerator v s).reply = s.reply := rfl
@[simp] theorem installGenerator_draws (v : Word) : (installGenerator v s).draws = s.draws := rfl

@[simp] theorem answer_status (h : Nat) (r : Reply) : (answer h r s).status = s.status := rfl
@[simp] theorem answer_genIn (h : Nat) (r : Reply) : (answer h r s).genIn = s.genIn := rfl
@[simp] theorem answer_gen (h : Nat) (r : Reply) : (answer h r s).gen = s.gen := rfl
@[simp] theorem answer_genDeg (h : Nat) (r : Reply) : (answer h r s).genDeg = s.genDeg := rfl
@[simp] theorem answer_dataLo (h : Nat) (r : Reply) : (answer h r s).dataLo = s.dataLo := rfl
@[simp] theorem answer_dataHi (h : Nat) (r : Reply) : (answer h r s).dataHi = s.dataHi := rfl
@[simp] theorem answer_outLo (h : Nat) (r : Reply) : (answer h r s).outLo = s.outLo := rfl
@[simp] theorem answer_outHi (h : Nat) (r : Reply) : (answer h r s).outHi = s.outHi := rfl
@[simp] theorem answer_outLen (h : Nat) (r : Reply) : (answer h r s).outLen = s.outLen := rfl
@[simp] theorem answer_chk (h : Nat) (r : Reply) : (answer h r s).chk = s.chk := rfl
@[simp] theorem answer_rem (h : Nat) (r : Reply) : (answer h r s).rem = s.rem := rfl
@[simp] theorem answer_job (h : Nat) (r : Reply) : (answer h r s).job = s.job := rfl
@[simp] theorem answer_turns (h : Nat) (r : Reply) : (answer h r s).turns = s.turns := rfl
@[simp] theorem answer_reply (h : Nat) (r : Reply) : (answer h r s).reply = some (h, r) := rfl
@[simp] theorem answer_draws (h : Nat) (r : Reply) : (answer h r s).draws = s.draws := rfl

@[simp] theorem setVerdict_zero_status :
    (setVerdict 0 s).status = { s.status with ok := true, result := .dataSuccess } := rfl

theorem setVerdict_pos_status {m : Nat} (h : m ≠ 0) :
    (setVerdict m s).status = { s.status with ok := false, result := .dataError } := by
  simp [setVerdict, h]

end Sys2Proof.Machine
end

