-- ==== Sys2Proof/Laws/Ops.lean ====
section
/-! SUPPORT. What each shared operation can do, said once: the spec lemma of an operation, and the inversion of a step into
its cases, which later proofs cite instead of unfolding. -/

namespace Sys2Proof.Machine

theorem busy_eq_false {s : State} : busy s = false ↔ s.job = none := by simp [busy]

theorem busy_eq_true {s : State} : busy s = true ↔ s.job ≠ none := by
  cases h : s.job <;> simp [busy, h]

/-- A command issued while no job is in flight (R162). -/
theorem issue_idle {s : State} (h : s.job = none) (c : State → State) : issue s c = c (issueClear s) := by
  simp [issue, busy_eq_false.2 h]

/-- A command issued while BUSY = 1 is ignored and sets OVR (R200). -/
theorem issue_busy {s : State} (h : s.job ≠ none) (c : State → State) : issue s c = setOvr s := by
  simp [issue, busy_eq_true.2 h]

/-- Everything SETGEN's own part can do (R91). -/
theorem setgenCommand_cases (s : State) :
    (s.genIn.toNat < 2 ∧ setgenCommand s = raiseCmdError .genInvalid s) ∨
    (2 ≤ s.genIn.toNat ∧ setgenCommand s = installGenerator s.genIn s) := by
  by_cases h : s.genIn = 0 ∨ s.genIn = 1
  · refine .inl ⟨?_, if_pos h⟩
    rcases h with h | h <;> simp [h]
  · refine .inr ⟨?_, if_neg h⟩
    rw [not_or] at h
    have h0 : s.genIn.toNat ≠ 0 := fun e => h.1 (BitVec.eq_of_toNat_eq (by simpa using e))
    have h1 : s.genIn.toNat ≠ 1 := fun e => h.2 (BitVec.eq_of_toNat_eq (by simpa using e))
    omega

/-- Everything ENCODE's issue can do (R121, R122). -/
theorem encodeCommand_cases (n : Nat) (s : State) :
    ((n < 1 ∨ 32 < n) ∧ encodeCommand n s = raiseCmdError .lenInvalid s) ∨
    (1 ≤ n ∧ n ≤ 32 ∧ s.status.codeValid = false ∧ encodeCommand n s = raiseCmdError .noCode s) ∨
    (1 ≤ n ∧ n ≤ 32 ∧ s.status.codeValid = true ∧ encodeCommand n s = startJob .enc n s) := by
  by_cases hn : n < 1 ∨ 32 < n
  · exact .inl ⟨hn, if_pos hn⟩
  · have hb : 1 ≤ n ∧ n ≤ 32 := by omega
    have he : encodeCommand n s =
        if s.status.codeValid = false then raiseCmdError .noCode s else startJob .enc n s := if_neg hn
    cases hc : s.status.codeValid
    · exact .inr (.inl ⟨hb.1, hb.2, rfl, by simp [he, hc]⟩)
    · exact .inr (.inr ⟨hb.1, hb.2, rfl, by simp [he, hc]⟩)

/-- Everything VERIFY's issue can do (R141 to R144). -/
theorem verifyCommand_cases (n : Nat) (s : State) :
    (64 < n ∧ verifyCommand n s = raiseCmdError .lenInvalid s) ∨
    (n ≤ 64 ∧ s.status.codeValid = false ∧
      verifyCommand n s = raiseCmdError .noCode (setResult .codeError s)) ∨
    (n ≤ 64 ∧ s.status.codeValid = true ∧ n < s.genDeg.toNat ∧
      verifyCommand n s = raiseCmdError .malformedFrame (setResult .dataError s)) ∨
    (n ≤ 64 ∧ s.status.codeValid = true ∧ s.genDeg.toNat ≤ n ∧ verifyCommand n s = startJob .ver n s) := by
  by_cases hn : 64 < n
  · exact .inl ⟨hn, by simp [verifyCommand, Config.flenMax, hn]⟩
  · have hb : n ≤ 64 := by omega
    cases hc : s.status.codeValid
    · exact .inr (.inl ⟨hb, rfl, by simp [verifyCommand, Config.flenMax, hn, hc]⟩)
    · by_cases hr : n < s.genDeg.toNat
      · exact .inr (.inr (.inl ⟨hb, rfl, hr, by simp [verifyCommand, Config.flenMax, hn, hc, hr]⟩))
      · exact .inr (.inr (.inr ⟨hb, rfl, by omega, by simp [verifyCommand, Config.flenMax, hn, hc, hr]⟩))

/-- The engine's step without a job. -/
theorem engineStep_none {s : State} (h : s.job = none) : engineStep s = s := by simp [engineStep, h]

theorem engineStep_enc {s : State} {j : Job} (h : s.job = some j) (ho : j.op = .enc) :
    engineStep s = completeEncode j s := by simp [engineStep, h, ho]

theorem engineStep_ver {s : State} {j : Job} (h : s.job = some j) (ho : j.op = .ver) :
    engineStep s = completeVerify j s := by simp [engineStep, h, ho]

/-- Everything the engine's step can do (R196). -/
theorem engineStep_cases (s : State) :
    (s.job = none ∧ engineStep s = s) ∨
    (∃ j, s.job = some j ∧ j.op = .enc ∧ engineStep s = completeEncode j s) ∨
    (∃ j, s.job = some j ∧ j.op = .ver ∧ engineStep s = completeVerify j s) := by
  cases h : s.job with
  | none => exact .inl ⟨rfl, engineStep_none h⟩
  | some j =>
    cases ho : j.op with
    | enc => exact .inr (.inl ⟨j, rfl, ho, engineStep_enc h ho⟩)
    | ver => exact .inr (.inr ⟨j, rfl, ho, engineStep_ver h ho⟩)

/-! What the engine's step leaves in every field it does not compute (R36, R196). -/

@[simp] theorem engineStep_genIn (s : State) : (engineStep s).genIn = s.genIn := by
  rcases engineStep_cases s with ⟨_, e⟩ | ⟨j, _, _, e⟩ | ⟨j, _, _, e⟩ <;> simp [e, completeEncode, completeVerify]

@[simp] theorem engineStep_gen (s : State) : (engineStep s).gen = s.gen := by
  rcases engineStep_cases s with ⟨_, e⟩ | ⟨j, _, _, e⟩ | ⟨j, _, _, e⟩ <;> simp [e, completeEncode, completeVerify]

@[simp] theorem engineStep_genDeg (s : State) : (engineStep s).genDeg = s.genDeg := by
  rcases engineStep_cases s with ⟨_, e⟩ | ⟨j, _, _, e⟩ | ⟨j, _, _, e⟩ <;> simp [e, completeEncode, completeVerify]

@[simp] theorem engineStep_dataLo (s : State) : (engineStep s).dataLo = s.dataLo := by
  rcases engineStep_cases s with ⟨_, e⟩ | ⟨j, _, _, e⟩ | ⟨j, _, _, e⟩ <;> simp [e, completeEncode, completeVerify]

@[simp] theorem engineStep_dataHi (s : State) : (engineStep s).dataHi = s.dataHi := by
  rcases engineStep_cases s with ⟨_, e⟩ | ⟨j, _, _, e⟩ | ⟨j, _, _, e⟩ <;> simp [e, completeEncode, completeVerify]

@[simp] theorem engineStep_turns (s : State) : (engineStep s).turns = s.turns := by
  rcases engineStep_cases s with ⟨_, e⟩ | ⟨j, _, _, e⟩ | ⟨j, _, _, e⟩ <;> simp [e, completeEncode, completeVerify]

@[simp] theorem engineStep_reply (s : State) : (engineStep s).reply = s.reply := by
  rcases engineStep_cases s with ⟨_, e⟩ | ⟨j, _, _, e⟩ | ⟨j, _, _, e⟩ <;> simp [e, completeEncode, completeVerify]

@[simp] theorem engineStep_draws (s : State) : (engineStep s).draws = s.draws := by
  rcases engineStep_cases s with ⟨_, e⟩ | ⟨j, _, _, e⟩ | ⟨j, _, _, e⟩ <;> simp [e, completeEncode, completeVerify]

@[simp] theorem engineStep_job (s : State) : (engineStep s).job = none := by
  rcases engineStep_cases s with ⟨h, e⟩ | ⟨j, _, _, e⟩ | ⟨j, _, _, e⟩
  · rw [e, h]
  · rw [e]; simp [completeEncode]
  · rw [e]; simp [completeVerify]

@[simp] theorem setVerdict_status_codeValid (m : Nat) (s : State) : (setVerdict m s).status.codeValid = s.status.codeValid := by
  unfold setVerdict; split <;> rfl

@[simp] theorem engineStep_status_codeValid (s : State) : (engineStep s).status.codeValid = s.status.codeValid := by
  rcases engineStep_cases s with ⟨_, e⟩ | ⟨j, _, _, e⟩ | ⟨j, _, _, e⟩ <;> simp [e, completeEncode, completeVerify]

@[simp] theorem setVerdict_status_err (m : Nat) (s : State) : (setVerdict m s).status.err = s.status.err := by
  unfold setVerdict; split <;> rfl

@[simp] theorem engineStep_status_err (s : State) : (engineStep s).status.err = s.status.err := by
  rcases engineStep_cases s with ⟨_, e⟩ | ⟨j, _, _, e⟩ | ⟨j, _, _, e⟩ <;> simp [e, completeEncode, completeVerify]

@[simp] theorem setVerdict_status_ovr (m : Nat) (s : State) : (setVerdict m s).status.ovr = s.status.ovr := by
  unfold setVerdict; split <;> rfl

@[simp] theorem engineStep_status_ovr (s : State) : (engineStep s).status.ovr = s.status.ovr := by
  rcases engineStep_cases s with ⟨_, e⟩ | ⟨j, _, _, e⟩ | ⟨j, _, _, e⟩ <;> simp [e, completeEncode, completeVerify]

/-- A read of a register changes nothing but the counter of draws, and that only for a result register while BUSY. -/
theorem memRead_cases (off : Offset) (s : State) :
    (regAt off = none ∧ memRead off s = (0, s)) ∨
    (∃ r, regAt off = some r ∧ (r.isResult = false ∨ s.job = none) ∧ memRead off s = (regValue s r, s)) ∨
    (∃ r, regAt off = some r ∧ r.isResult = true ∧ s.job ≠ none ∧
      memRead off s = (Config.anyRead s.draws, { s with draws := s.draws + 1 })) := by
  cases hr : regAt off with
  | none => exact .inl ⟨rfl, by simp [memRead, hr]⟩
  | some r =>
    by_cases h : r.isResult = true ∧ s.job ≠ none
    · exact .inr (.inr ⟨r, rfl, h.1, h.2, by simp [memRead, hr, h.1, busy_eq_true.2 h.2, drawAny]⟩)
    · refine .inr (.inl ⟨r, rfl, ?_, ?_⟩)
      · rw [Classical.not_and_iff_not_or_not, Bool.not_eq_true, not_not] at h; exact h
      · rw [Classical.not_and_iff_not_or_not, Bool.not_eq_true, not_not] at h
        rcases h with h | h
        · simp [memRead, hr, h]
        · simp [memRead, hr, busy_eq_false.2 h]

/-- Everything a CMD write can do (R162): one of these states is next. -/
theorem commandWrite_cases (w : Word) (s : State) : ∃ t, commandWrite w s = .next t ∧
    ((s.job ≠ none ∧ t = setOvr s) ∨
     (s.job = none ∧ ∃ e, decode w = .error e ∧ t = raiseCmdError .illegalCmd (issueClear s)) ∨
     (s.job = none ∧ decode w = .ok .setgen ∧ t = setgenCommand (issueClear s)) ∨
     (s.job = none ∧ ∃ n, decode w = .ok (.encode n) ∧ t = encodeCommand n (issueClear s)) ∨
     (s.job = none ∧ ∃ n, decode w = .ok (.verify n) ∧ t = verifyCommand n (issueClear s))) := by
  by_cases hj : s.job = none
  · cases hd : decode w with
    | error e => exact ⟨_, by simp [commandWrite, hd, execIllegal], .inr (.inl ⟨hj, e, rfl, issue_idle hj _⟩)⟩
    | ok i =>
      cases i with
      | setgen =>
        exact ⟨_, by simp [commandWrite, hd, exec, execSetgen], .inr (.inr (.inl ⟨hj, rfl, issue_idle hj _⟩))⟩
      | encode n =>
        exact ⟨_, by simp [commandWrite, hd, exec, execEncode],
          .inr (.inr (.inr (.inl ⟨hj, n, rfl, issue_idle hj _⟩)))⟩
      | verify n =>
        exact ⟨_, by simp [commandWrite, hd, exec, execVerify],
          .inr (.inr (.inr (.inr ⟨hj, n, rfl, issue_idle hj _⟩)))⟩
  · cases hd : decode w with
    | error e => exact ⟨_, by rw [commandWrite, hd]; rfl, .inl ⟨hj, issue_busy hj _⟩⟩
    | ok i =>
      cases i with
      | setgen => exact ⟨_, by rw [commandWrite, hd]; rfl, .inl ⟨hj, issue_busy hj _⟩⟩
      | encode n => exact ⟨_, by rw [commandWrite, hd]; rfl, .inl ⟨hj, issue_busy hj _⟩⟩
      | verify n => exact ⟨_, by rw [commandWrite, hd]; rfl, .inl ⟨hj, issue_busy hj _⟩⟩

theorem guardedWrite_idle {s : State} (h : s.job = none) (f : State → State) : guardedWrite f s = f s := by
  simp [guardedWrite, busy_eq_false.2 h]

theorem guardedWrite_busy {s : State} (h : s.job ≠ none) (f : State → State) : guardedWrite f s = setOvr s := by
  simp [guardedWrite, busy_eq_true.2 h]

/-- Everything a write can do (R56): one of these states is next. -/
theorem memWrite_cases (off : Offset) (v : Word) (s : State) : ∃ t, memWrite off v s = .next t ∧
    ((off = 0x08 ∧ commandWrite v s = .next t) ∨
     (off = 0x04 ∧ v.getLsbD 16 = true ∧ t = clearOvr s) ∨
     (off = 0x0C ∧ s.job = none ∧ t = { s with genIn := v }) ∨
     (off = 0x18 ∧ s.job = none ∧ t = { s with dataLo := v }) ∨
     (off = 0x1C ∧ s.job = none ∧ t = { s with dataHi := v }) ∨
     ((off = 0x0C ∨ off = 0x18 ∨ off = 0x1C) ∧ s.job ≠ none ∧ t = setOvr s) ∨
     (off ≠ 0x08 ∧ t = s)) := by
  cases hr : regAt off with
  | none =>
    refine ⟨s, by simp [memWrite, hr], ?_⟩
    have hne : off ≠ 0x08 := by rintro rfl; exact absurd hr (by decide)
    exact .inr (.inr (.inr (.inr (.inr (.inr ⟨hne, rfl⟩)))))
  | some r =>
    have ho := offset_of_regAt hr
    cases r
    case cmd =>
      obtain ⟨t, ht, -⟩ := commandWrite_cases v s
      exact ⟨t, by simp [memWrite, hr, ht], .inl ⟨ho, ht⟩⟩
    case status =>
      by_cases hv : v.getLsbD 16 = true
      · exact ⟨clearOvr s, by simp only [memWrite, hr, hv, if_true], .inr (.inl ⟨ho, hv, rfl⟩)⟩
      · refine ⟨s, by simp only [memWrite, hr, hv, Bool.false_eq_true, if_false], ?_⟩
        exact .inr (.inr (.inr (.inr (.inr (.inr ⟨by rw [ho]; decide, rfl⟩)))))
    case genIn =>
      by_cases hj : s.job = none
      · exact ⟨_, by simp only [memWrite, hr, guardedWrite_idle hj], .inr (.inr (.inl ⟨ho, hj, rfl⟩))⟩
      · exact ⟨_, by simp only [memWrite, hr, guardedWrite_busy hj],
          .inr (.inr (.inr (.inr (.inr (.inl ⟨.inl ho, hj, rfl⟩)))))⟩
    case dataLo =>
      by_cases hj : s.job = none
      · exact ⟨_, by simp only [memWrite, hr, guardedWrite_idle hj], .inr (.inr (.inr (.inl ⟨ho, hj, rfl⟩)))⟩
      · exact ⟨_, by simp only [memWrite, hr, guardedWrite_busy hj],
          .inr (.inr (.inr (.inr (.inr (.inl ⟨.inr (.inl ho), hj, rfl⟩)))))⟩
    case dataHi =>
      by_cases hj : s.job = none
      · exact ⟨_, by simp only [memWrite, hr, guardedWrite_idle hj],
          .inr (.inr (.inr (.inr (.inl ⟨ho, hj, rfl⟩))))⟩
      · exact ⟨_, by simp only [memWrite, hr, guardedWrite_busy hj],
          .inr (.inr (.inr (.inr (.inr (.inl ⟨.inr (.inr ho), hj, rfl⟩)))))⟩
    all_goals
      exact ⟨s, by simp only [memWrite, hr],
        .inr (.inr (.inr (.inr (.inr (.inr ⟨by rw [ho]; decide, rfl⟩)))))⟩

/-- Everything an access can do (R52, R53, R55, R56): one of these states is next. -/
theorem performAccess_cases (h : Nat) (a : Access) (s : State) : ∃ t, performAccess h a s = .next t ∧
    ((a.admitted = false ∧ t = answer h (.fault (.busError a.off a.size)) s) ∨
     (a.admitted = true ∧ a.dir = .read ∧ t = answer h (.data (memRead a.off s).1) (memRead a.off s).2) ∨
     (a.admitted = true ∧ ∃ v, a.dir = .write v ∧ memWrite a.off v (answer h .written s) = .next t)) := by
  cases ha : a.admitted with
  | false => exact ⟨_, by simp [performAccess, ha], .inl ⟨rfl, rfl⟩⟩
  | true =>
    cases hd : a.dir with
    | read => exact ⟨_, by simp [performAccess, ha, hd], .inr (.inl ⟨rfl, rfl, rfl⟩)⟩
    | write v =>
      obtain ⟨t, ht, -⟩ := memWrite_cases a.off v (answer h .written s)
      exact ⟨t, by simp [performAccess, ha, hd, ht], .inr (.inr ⟨rfl, v, rfl, ht⟩)⟩

theorem admitted_iff (a : Access) : a.admitted = true ↔ a.size = 4 ∧ a.off.toNat % 4 = 0 := by
  simp [Access.admitted]

/-- Everything a step can do (R10): the turn of one agent. -/
theorem step_cases {s t : State} (h : step s = .next t) :
    ((s.turns = [] ∨ ∃ rest, s.turns = .engine :: rest) ∧
      t = engineStep { s with turns := s.turns.tail, reply := none }) ∨
    (∃ p rest, s.turns = .reset p :: rest ∧ t = resetEvent p { s with turns := rest, reply := none }) ∨
    (∃ k a rest, s.turns = .access k a :: rest ∧
      performAccess k a { s with turns := rest, reply := none } = .next t) := by
  unfold step at h
  split at h
  · rename_i ht
    injection h with h
    exact .inl ⟨.inl ht, by rw [← h, ht]; rfl⟩
  · rename_i x rest ht
    cases x with
    | engine => injection h with h; exact .inl ⟨.inr ⟨rest, ht⟩, by rw [← h, ht]; rfl⟩
    | reset p => injection h with h; exact .inr (.inl ⟨p, rest, ht, h.symm⟩)
    | access k a => exact .inr (.inr ⟨k, a, rest, ht, h⟩)

end Sys2Proof.Machine
end

