-- ==== Sys2Proof/Laws/Step.lean ====
section
/-! SUPPORT. The inversion of a whole step: every state that can come next, as one named update of the state before it, with
the turn that leads there. Invariants and histories are proved by its cases. -/

namespace Sys2Proof.Machine

theorem decode_setgen {w : Word} (h : decode w = .ok .setgen) : w = 0x00000001 := by
  unfold decode at h
  split at h
  · rename_i h1
    have hm : w &&& 0xFFFFFFFF#32 = w := BitVec.and_allOnes
    rw [TableRow.selects, beq_iff_eq] at h1
    exact hm.symm.trans h1
  · split at h
    · simp at h
    · split at h <;> simp at h

/-- How a write can change the state (R56, R162, R91, R121, R122, R141 to R144, R200), the offset and the value given. -/
inductive WriteEffect (off : Offset) (v : Word) (s : State) : State → Prop
  /-- No effect: a read-only register, a reserved offset, or STATUS with bit 16 clear. -/
  | nothing (ho : off ≠ 0x08) : WriteEffect off v s s
  /-- Ignored for BUSY. -/
  | ignored (ho : off ∈ ([0x08, 0x0C, 0x18, 0x1C] : List Offset)) (hj : s.job ≠ none) : WriteEffect off v s (setOvr s)
  /-- The write-1-to-clear of STATUS. -/
  | cleared (ho : off = 0x04) (hv : v.getLsbD 16 = true) : WriteEffect off v s (clearOvr s)
  | genIn (ho : off = 0x0C) (hj : s.job = none) : WriteEffect off v s { s with genIn := v }
  | dataLo (ho : off = 0x18) (hj : s.job = none) : WriteEffect off v s { s with dataLo := v }
  | dataHi (ho : off = 0x1C) (hj : s.job = none) : WriteEffect off v s { s with dataHi := v }
  /-- A refused command that writes ERR only. -/
  | refused (e : ErrCode) (ho : off = 0x08) (hj : s.job = none)
      (he : e ∈ [ErrCode.illegalCmd, .genInvalid, .lenInvalid, .noCode]) :
      WriteEffect off v s (raiseCmdError e (issueClear s))
  /-- VERIFY without a generator. -/
  | noCode (ho : off = 0x08) (hj : s.job = none) (hc : s.status.codeValid = false) :
      WriteEffect off v s (raiseCmdError .noCode (setResult .codeError (issueClear s)))
  /-- VERIFY of a short frame. -/
  | shortFrame (ho : off = 0x08) (hj : s.job = none) (hc : s.status.codeValid = true) :
      WriteEffect off v s (raiseCmdError .malformedFrame (setResult .dataError (issueClear s)))
  | installed (ho : off = 0x08) (hv : v = 0x00000001) (hj : s.job = none) (hg : 2 ≤ s.genIn.toNat) :
      WriteEffect off v s (installGenerator s.genIn (issueClear s))
  | encStarted (n : Nat) (ho : off = 0x08) (hj : s.job = none) (hc : s.status.codeValid = true) (h1 : 1 ≤ n)
      (h2 : n ≤ 32) : WriteEffect off v s (startJob .enc n (issueClear s))
  | verStarted (n : Nat) (ho : off = 0x08) (hj : s.job = none) (hc : s.status.codeValid = true)
      (h1 : s.genDeg.toNat ≤ n) (h2 : n ≤ 64) : WriteEffect off v s (startJob .ver n (issueClear s))

/-- Every CMD write has one of the effects. -/
theorem commandWrite_effect {w : Word} {s t : State} (h : commandWrite w s = .next t) : WriteEffect 0x08 w s t := by
  obtain ⟨t', ht, hc⟩ := commandWrite_cases w s
  rw [h] at ht
  injection ht with ht
  subst ht
  rcases hc with ⟨hj, rfl⟩ | ⟨hj, e, _, rfl⟩ | ⟨hj, hd, rfl⟩ | ⟨hj, n, _, rfl⟩ | ⟨hj, n, _, rfl⟩
  · exact .ignored (by simp) hj
  · exact .refused _ rfl hj (by simp)
  · rcases setgenCommand_cases (issueClear s) with ⟨_, e⟩ | ⟨hg, e⟩ <;> rw [e]
    · exact .refused _ rfl hj (by simp)
    · exact .installed rfl (decode_setgen hd) hj hg
  · rcases encodeCommand_cases n (issueClear s) with ⟨_, e⟩ | ⟨_, _, _, e⟩ | ⟨h1, h2, hc, e⟩ <;> rw [e]
    · exact .refused _ rfl hj (by simp)
    · exact .refused _ rfl hj (by simp)
    · exact .encStarted n rfl hj hc h1 h2
  · rcases verifyCommand_cases n (issueClear s) with ⟨_, e⟩ | ⟨_, hc, e⟩ | ⟨_, hc, _, e⟩ | ⟨h2, hc, h1, e⟩ <;> rw [e]
    · exact .refused _ rfl hj (by simp)
    · exact .noCode rfl hj hc
    · exact .shortFrame rfl hj hc
    · exact .verStarted n rfl hj hc h1 h2

/-- Every write has one of the effects. -/
theorem memWrite_effect {off : Offset} {v : Word} {s t : State} (h : memWrite off v s = .next t) :
    WriteEffect off v s t := by
  obtain ⟨t', ht, hc⟩ := memWrite_cases off v s
  rw [h] at ht
  injection ht with ht
  subst ht
  rcases hc with ⟨ho, hc⟩ | ⟨ho, hv, rfl⟩ | ⟨ho, hj, rfl⟩ | ⟨ho, hj, rfl⟩ | ⟨ho, hj, rfl⟩ | ⟨ho, hj, rfl⟩ | ⟨ho, rfl⟩
  · exact ho ▸ commandWrite_effect hc
  · exact .cleared ho hv
  · exact .genIn ho hj
  · exact .dataLo ho hj
  · exact .dataHi ho hj
  · exact .ignored (by rcases ho with rfl | rfl | rfl <;> decide) hj
  · exact .nothing ho

/-- How a step can change the state: `b` below is the state with the turn taken off and no reply. -/
inductive StepEffect (s : State) : State → Prop
  /-- The engine's turn, or no turn is pending. -/
  | engine (h : s.turns = [] ∨ ∃ rest, s.turns = .engine :: rest) :
      StepEffect s (engineStep { s with turns := s.turns.tail, reply := none })
  | reset (p : Option (Nat × Access)) (rest : List Turn) (h : s.turns = .reset p :: rest) :
      StepEffect s (resetEvent p { s with turns := rest, reply := none })
  /-- A bus error, or a read that draws no free value. -/
  | answered (k : Nat) (a : Access) (rest : List Turn) (r : Reply) (h : s.turns = .access k a :: rest) :
      StepEffect s (answer k r { s with turns := rest, reply := none })
  /-- A read of a result register while BUSY = 1. -/
  | drawn (k : Nat) (off : Offset) (rest : List Turn)
      (h : s.turns = .access k { off := off, size := 4, dir := .read } :: rest) (r : Reg) (hr : regAt off = some r)
      (hres : r.isResult = true) (hj : s.job ≠ none) :
      StepEffect s (answer k (.data (Config.anyRead s.draws))
        { s with turns := rest, reply := none, draws := s.draws + 1 })
  | write (k : Nat) (off : Offset) (v : Word) (rest : List Turn) (t : State)
      (h : s.turns = .access k { off := off, size := 4, dir := .write v } :: rest)
      (he : WriteEffect off v (answer k .written { s with turns := rest, reply := none }) t) : StepEffect s t

/-- Every step has one of the effects. -/
theorem step_effect {s t : State} (h : step s = .next t) : StepEffect s t := by
  rcases step_cases h with ⟨ht, rfl⟩ | ⟨p, rest, ht, rfl⟩ | ⟨k, a, rest, ht, ha⟩
  · exact .engine ht
  · exact .reset p rest ht
  · obtain ⟨t', ht', hc⟩ := performAccess_cases k a { s with turns := rest, reply := none }
    rw [ha] at ht'
    injection ht' with ht'
    subst ht'
    obtain ⟨off, size, dir⟩ := a
    rcases hc with ⟨_, rfl⟩ | ⟨had, hd, rfl⟩ | ⟨had, v, hd, hw⟩
    · exact .answered k _ rest _ ht
    · obtain ⟨hs, -⟩ := (admitted_iff _).1 had
      simp only at hs hd ⊢
      subst hs hd
      rcases memRead_cases off { s with turns := rest, reply := none } with ⟨_, e⟩ | ⟨r, _, _, e⟩ | ⟨r, hr, hres, hj, e⟩
      · rw [e]; exact .answered k _ rest _ ht
      · rw [e]; exact .answered k _ rest _ ht
      · rw [e]; exact .drawn k off rest ht r hr hres hj
    · obtain ⟨hs, -⟩ := (admitted_iff _).1 had
      simp only at hs hd hw
      subst hs hd
      exact .write k off v rest _ ht (memWrite_effect hw)

end Sys2Proof.Machine
end

