-- ==== Sys2Proof/Laws/HostEnv.lean ====
section
/-! SUPPORT. What a host program can do: the fields of a run under each update, what the port answers, the inversion of a
program's own move, and how a list of moves is played. -/

namespace Sys2Proof.Machine

variable (x : HostRun) (h t u : Nat) (v : Word)

@[simp] theorem HostRun.advance_todo : x.advance.todo = x.todo.tail := rfl
@[simp] theorem HostRun.advance_temps : x.advance.temps = x.temps := rfl
@[simp] theorem HostRun.advance_error : x.advance.error = x.error := rfl
@[simp] theorem HostRun.advance_block : x.advance.block = x.block := rfl
@[simp] theorem HostRun.setTemp_todo : (x.setTemp t v).todo = x.todo := rfl
@[simp] theorem HostRun.setTemp_error : (x.setTemp t v).error = x.error := rfl
@[simp] theorem HostRun.setTemp_block : (x.setTemp t v).block = x.block := rfl

theorem HostRun.setTemp_temp_self : (x.setTemp t v).temp t = some v := by simp [HostRun.setTemp, HostRun.temp]

theorem lookup_filter_ne {t u : Nat} (hu : u ≠ t) (l : List (Nat × Word)) :
    (l.filter fun p => p.1 != t).lookup u = l.lookup u := by
  induction l with
  | nil => rfl
  | cons p l ih =>
    by_cases hp : p.1 = t
    · have hut : (u == t) = false := by simp [hu]
      simp [hp, ih, List.lookup, hut]
    · cases hup : u == p.1 <;> simp [hp, ih, List.lookup, hup]

theorem HostRun.setTemp_temp_other (hu : u ≠ t) : (x.setTemp t v).temp u = x.temp u := by
  have hut : (u == t) = false := by simp [hu]
  simp only [HostRun.setTemp, HostRun.temp, List.lookup, hut]
  exact lookup_filter_ne hu x.temps

/-- Whatever an answer says, a program does not change the block by hearing it. -/
@[simp] theorem HostRun.hear_block (act : HostAct) (r : Reply) : (x.hear act r).block = x.block := by
  unfold HostRun.hear
  split
  · rfl
  · rfl
  · split
    · rfl
    · rfl
    · split <;> rfl

/-- A write changes nothing of the port's answer. -/
theorem memWrite_reply {off : Offset} {v : Word} {s b : State} (hw : memWrite off v s = .next b) : b.reply = s.reply := by
  cases memWrite_effect hw <;> simp

/-- The port answers every access, and answers the host that presented it. -/
theorem performAccess_answers (a : Access) (s : State) :
    ∃ b r, performAccess h a s = .next b ∧ b.reply = some (h, r) := by
  obtain ⟨b, hb, ⟨_, rfl⟩ | ⟨_, _, rfl⟩ | ⟨_, v, _, hw⟩⟩ := performAccess_cases h a s
  · exact ⟨_, _, hb, rfl⟩
  · exact ⟨_, _, hb, rfl⟩
  · exact ⟨b, _, hb, memWrite_reply hw⟩

@[simp] theorem HostRun.value_const : x.value (.const v) = .ok v := rfl

theorem HostRun.value_temp {x : HostRun} {t : Nat} {v : Word} (ht : x.temp t = some v) : x.value (.temp t) = .ok v := by
  simp [HostRun.value, ht]

theorem HostRun.value_unset {x : HostRun} {t : Nat} (ht : x.temp t = none) : x.value (.temp t) = .error t := by
  simp [HostRun.value, ht]

/-- Everything looking up an operation's values can give: the operation, or a temporary of it that is not set. -/
theorem HostRun.resolve_cases (op : HostOp) :
    (∃ act, x.resolve op = .ok act) ∨ (∃ t, x.temp t = none ∧ x.resolve op = .error t) := by
  have hv : ∀ a : HostVal, (∃ w, x.value a = .ok w) ∨ (∃ t, x.temp t = none ∧ x.value a = .error t) := by
    intro a
    cases a with
    | const w => exact .inl ⟨w, rfl⟩
    | temp t =>
      cases ht : x.temp t with
      | none => exact .inr ⟨t, ht, HostRun.value_unset ht⟩
      | some w => exact .inl ⟨w, HostRun.value_temp ht⟩
  cases op with
  | wr off a => rcases hv a with ⟨w, e⟩ | ⟨t, ht, e⟩ <;> simp [HostRun.resolve, *]
  | rd off t => exact .inl ⟨_, rfl⟩
  | poll off m a =>
    rcases hv m with ⟨w, e⟩ | ⟨t, ht, e⟩
    · rcases hv a with ⟨w', e'⟩ | ⟨t, ht, e'⟩ <;> simp [HostRun.resolve, *]
    · simp [HostRun.resolve, e, ht]

/-- A program's own move at an operation, once its values are known, and its access is known to lead to b and to be
answered r. -/
theorem HostRun.own_of_answer {x : HostRun} {op : HostOp} {act : HostAct} {rest : List HostOp} {b : State} {k : Nat}
    {r : Reply} (he : x.error = none) (ht : x.todo = op :: rest) (ha : x.resolve op = .ok act)
    (hb : performAccess h act.access x.block = .next b) (hr : b.reply = some (k, r)) :
    x.own h = ({ x with block := b } : HostRun).hear act r := by
  simp [HostRun.own, HostRun.present, he, ht, ha, hb, stateAfter, hr]

/-- A program stops at a temporary that is not set, and presents no access. -/
theorem HostRun.own_of_unset {x : HostRun} {op : HostOp} {rest : List HostOp} {t : Nat} (he : x.error = none)
    (ht : x.todo = op :: rest) (ha : x.resolve op = .error t) :
    x.own h = { x with error := some (.unsetTemporary t) } := by
  simp [HostRun.own, HostRun.present, he, ht, ha]

/-- A program that was stopped presents no access. -/
theorem HostRun.own_of_error {x : HostRun} {f : HostStop} (he : x.error = some f) : x.own h = x := by
  simp [HostRun.own, HostRun.present, he]

/-- A program that has ended presents no access. -/
theorem HostRun.own_of_ended {x : HostRun} (he : x.ended = true) : x.own h = x := by
  simp only [HostRun.ended, Bool.and_eq_true, List.isEmpty_iff, Option.isNone_iff_eq_none] at he
  simp [HostRun.own, HostRun.present, he.1, he.2]

@[simp] theorem HostRun.play_nil : x.play h [] = x := rfl

@[simp] theorem HostRun.play_cons (m : Move) (l : List Move) : x.play h (m :: l) = (x.move h m).play h l := rfl

theorem HostRun.play_append (l l' : List Move) : x.play h (l ++ l') = (x.play h l).play h l' := List.foldl_append

@[simp] theorem HostRun.move_own : x.move h .own = x.own h := rfl

@[simp] theorem HostRun.move_engine : x.move h (.other .engine) = { x with block := engineStep x.block } := rfl

/-! The blocks of a sender and a receiver: what one role leaves of the other's. -/

@[simp] theorem Blocks.sender_setSender (s : State) (b : Blocks) : (b.setSender s).sender = s := by cases b <;> rfl

@[simp] theorem Blocks.receiver_setReceiver (s : State) (b : Blocks) : (b.setReceiver s).receiver = s := by
  cases b <;> rfl

@[simp] theorem Blocks.sender_setReceiver_separate (s r t : State) :
    ((Blocks.separate s r).setReceiver t).sender = s := rfl

@[simp] theorem Blocks.sender_setReceiver_shared (s t : State) : ((Blocks.shared s).setReceiver t).sender = t := rfl

@[simp] theorem Blocks.receiver_setSender_separate (s r t : State) :
    ((Blocks.separate s r).setSender t).receiver = r := rfl

@[simp] theorem Blocks.receiver_setSender_shared (s t : State) : ((Blocks.shared s).setSender t).receiver = t := rfl

/-- Everything the attempt of a sender can do: a frame more, or a stop with none. -/
theorem sendFrame_cases (P n : Nat) (y : Sending) :
    (encodeCompleted n y.blocks.sender (runOps h (encOps (BitVec.ofNat 64 P) n) y.blocks.sender) = true ∧
      sendFrame h P n y = { y with
        phase := .awaitingResult
        sent := y.sent ++ [outString (runOps h (encOps (BitVec.ofNat 64 P) n) y.blocks.sender).block]
        blocks := y.blocks.setSender (runOps h (encOps (BitVec.ofNat 64 P) n) y.blocks.sender).block }) ∨
    (sendFrame h P n y = { y with
      stopped := true
      blocks := y.blocks.setSender (runOps h (encOps (BitVec.ofNat 64 P) n) y.blocks.sender).block }) := by
  cases he : encodeCompleted n y.blocks.sender (runOps h (encOps (BitVec.ofNat 64 P) n) y.blocks.sender)
  · exact .inr (by simp [sendFrame, he])
  · exact .inl ⟨rfl, by simp [sendFrame, he]⟩

end Sys2Proof.Machine
end

