-- ==== Sys2Proof/Laws/PerInstr.lean ====
section
/-! SUPPORT. Facts about every command as syntax, one lemma per constructor. -/

namespace Sys2Proof.Laws.RowMatch

/-- The opcode-table row of a command (R71). -/
def rowOf : Instr → TableRow
  | .setgen => setgenRow
  | .encode _ => encodeRow
  | .verify _ => verifyRow

/-- The word of a well-formed command selects the command's own row of the opcode table (R71, R76). -/
def Statement (i : Instr) : Prop := WellFormed i → (rowOf i).selects (Sys2Proof.encode i) = true

theorem setgen : Statement .setgen := fun _ => by decide

theorem length_word_matches (opc : Word) (ho : opc &&& 0xFFFF80FF#32 = opc) {n : Nat} (h : n < 128) :
    (opc ||| (BitVec.ofNat 32 n <<< 8)) &&& 0xFFFF80FF#32 = opc := by
  have hz : ∀ k : Fin 128, (BitVec.ofNat 32 k.val <<< 8) &&& 0xFFFF80FF#32 = 0#32 := by decide
  have hd : (opc ||| (BitVec.ofNat 32 n <<< 8)) &&& 0xFFFF80FF#32 =
      (opc &&& 0xFFFF80FF#32) ||| ((BitVec.ofNat 32 n <<< 8) &&& 0xFFFF80FF#32) := by
    ext i hi
    simp [Bool.and_or_distrib_right]
  rw [hd, hz ⟨n, h⟩, ho]
  simp

theorem encode (n : Nat) : Statement (.encode n) := fun h => by
  have hn : n < 128 := by simpa [WellFormed, Instr.wellFormed, lenFits] using h
  simpa [rowOf, TableRow.selects, encodeRow, Sys2Proof.encode] using length_word_matches 2#32 (by decide) hn

theorem verify (n : Nat) : Statement (.verify n) := fun h => by
  have hn : n < 128 := by simpa [WellFormed, Instr.wellFormed, lenFits] using h
  simpa [rowOf, TableRow.selects, verifyRow, Sys2Proof.encode] using length_word_matches 3#32 (by decide) hn

end Sys2Proof.Laws.RowMatch
end

