-- ==== Sys2Proof/Tests/Slice0.lean ====
section
/-! SUPPORT. The model's own tests. Expected values come from the spec: the encodings of 30_encoding.md R70, R71, R76 and
R78, the vectors of 95_test_vectors.md and the trace of 41_divider.md R111. The second half shows, for each statement with
hypotheses, a concrete state and operands that meet all of them together. -/

open Sys2Proof Sys2Proof.Machine

namespace Sys2Proof.Tests

/-! ### WellFormed: each check refuses an ill-formed command -/

/-- R72: a payload length of 128 does not fit the 7-bit LEN field. -/
theorem test_encode_128_ill_formed : ¬ WellFormed (.encode 128) := by decide

/-- R72: a frame length of 128 does not fit the 7-bit LEN field. -/
theorem test_verify_128_ill_formed : ¬ WellFormed (.verify 128) := by decide

theorem test_encode_127_well_formed : WellFormed (.encode 127) := by decide

/-! ### Decoding: words written bit by bit from the pattern `00000000000000000LLLLLLL0000OOOO` of R70 -/

/-- R71: OPC 0001, LEN 0000000. -/
theorem test_decode_setgen : decode 0b00000000000000000000000000000001#32 = .ok .setgen := by decide

/-- R71: OPC 0010, LEN 0000100 (4). -/
theorem test_decode_encode_4 : decode 0b00000000000000000000010000000010#32 = .ok (.encode 4) := by decide

/-- R71: OPC 0010, LEN 1000001 (65): both ends of the LEN field. -/
theorem test_decode_encode_65 : decode 0b00000000000000000100000100000010#32 = .ok (.encode 65) := by decide

/-- R71: OPC 0011, LEN 0000111 (7). -/
theorem test_decode_verify_7 : decode 0b00000000000000000000011100000011#32 = .ok (.verify 7) := by decide

/-- R71: OPC 0011, LEN 1111111 (127). -/
theorem test_decode_verify_127 : decode 0b00000000000000000111111100000011#32 = .ok (.verify 127) := by decide

/-- V-CMD-11 to V-CMD-13, R74: OPC 0x0, 0x4, 0xF. -/
theorem test_decode_unknown_opcodes :
    [0x00000000#32, 0x00000004#32, 0x0000000F#32].map decode =
      [.error .unknownOpcode, .error .unknownOpcode, .error .unknownOpcode] := by decide

/-- V-CMD-14, R74: SETGEN's OPC with LEN 1. -/
theorem test_decode_setgen_with_length : decode 0x00000101#32 = .error .setgenLength := by decide

/-- V-CMD-15 to V-CMD-18, R74: a bit of Z0, bit 15, bit 31, all bits. -/
theorem test_decode_reserved_bits :
    [0x00000012#32, 0x00008002#32, 0x80000403#32, 0xFFFFFFFF#32].map decode =
      [.error .reservedBits, .error .reservedBits, .error .reservedBits, .error .reservedBits] := by decide

/-- The opcode table's numbering is the command word's own. -/
theorem test_decode_table_word : decodeTableWord 32 0x00000703 = some (.verify 7) := by decide

/-! ### Small states -/

/-- Code "1001" configured, idle, payload "1101" loaded (95_test_vectors.md P1 after row 3). -/
def idle9 : State :=
  { State.reset with
    genIn := 9, gen := 9, genDeg := 3, dataLo := 0xD, status := { Status.reset with codeValid := true } }

/-- The same, with a job in flight. -/
def busy9 (op : JobOp) (n : Nat) (d : Pair) : State :=
  { idle9 with job := some { op := op, n := n, d := d, g := 9, r := 3 } }

/-- The start state of 95_test_vectors.md section 2.7: ENCODE 4 just issued. -/
def hazard9 : State := busy9 .enc 4 0xD

/-- The state after a command, for reading one field. -/
def after (i : Instr) (s : State) : State := stateAfter (exec i s) s

/-- The state after one step with one pending turn. -/
def afterTurn (t : Turn) (s : State) : State := stateAfter (step { s with turns := [t] }) s

/-- A 4-byte access of host 1. -/
def rd (off : Offset) : Turn := .access 1 { off := off, size := 4, dir := .read }
def wr (off : Offset) (v : Word) : Turn := .access 1 { off := off, size := 4, dir := .write v }

/-! ### One step of each command -/

/-- V-GEN-6: GEN_IN 0x107 gives GEN_DEG 8. -/
theorem test_setgen_installs :
    (fun t : State => (t.gen, t.genDeg, statusWord t)) (after .setgen { State.reset with genIn := 0x107 }) =
      (0x107, 8, 0x00000002) := by decide

/-- V-GEN-10: a refused SETGEN keeps the old code. -/
theorem test_setgen_refuses_one :
    (fun t : State => (t.gen, t.genDeg, statusWord t)) (after .setgen { idle9 with genIn := 1 }) =
      (9, 3, 0x00000202) := by decide

/-- V-ENC-5: DATA bits at n and above are ignored; R122: the job is {ENC, 4, 0xD, 0x9, 3}. -/
theorem test_encode_starts_job :
    (after (.encode 4) { idle9 with dataLo := 0xFFFFFFFD }).job =
      some { op := .enc, n := 4, d := 0xD, g := 9, r := 3 } := by decide

/-- V-ENC-19: LEN_INVALID comes before NO_CODE. -/
theorem test_encode_33_without_code : statusWord (after (.encode 33) State.reset) = 0x00000300 := by decide

/-- V-VER-14: the code check precedes the check of the length against r. -/
theorem test_verify_0_without_code : statusWord (after (.verify 0) State.reset) = 0x00000430 := by decide

/-- V-VER-5: code "10011", a frame of 3 bits. -/
theorem test_verify_short_frame :
    statusWord (after (.verify 3) { idle9 with gen := 0x13, genDeg := 4 }) = 0x00000522 := by decide

/-! ### The divider and the completions -/

/-- V-DIV-1, V-DIV-11, V-DIV-15, V-DIV-17. -/
theorem test_pmod_vectors :
    [pmod 0x68 7 0x9 3, pmod 0xFFFFFFFFFFFFFFFF 64 0x107 8, pmod 0x4000000000000000 63 0x80000005 31,
      pmod 0x313233340000 48 0x11021 16] = [0x4, 0xF3, 0x11, 0xD789] := by decide +kernel

/-- R111: the register after each shift and after each reduction of `pmod(0b1101000, 7, 0b1001, 3)`. -/
theorem test_pmod_trace :
    ([6, 5, 4, 3, 2, 1, 0].zip [0, 1, 3, 6, 4, 1, 2]).map
      (fun x => (shiftIn 0b1101000 x.1 x.2, reduce 9 3 (shiftIn 0b1101000 x.1 x.2))) =
      [(0b0001, 0b0001), (0b0011, 0b0011), (0b0110, 0b0110), (0b1101, 0b0100), (0b1000, 0b0001), (0b0010, 0b0010),
        (0b0100, 0b0100)] := by decide

/-- V-ENC-1: the completion of Scenario A. -/
theorem test_encode_completes :
    (fun t : State => (t.chk, t.rem, t.outHi, t.outLo, t.outLen, statusWord t)) (afterTurn .engine hazard9) =
      (0x4, 0x4, 0, 0x6C, 7, 0x00000002) := by decide

/-- V-VER-2: the completion of Scenario B. -/
theorem test_verify_completes :
    (fun t : State => (t.rem, t.chk, t.outHi, t.outLo, t.outLen, statusWord t))
      (afterTurn .engine (busy9 .ver 7 0x6D)) = (0x1, 0x5, 0, 0xD, 4, 0x00000022) := by decide

/-! ### The bus port -/

/-- V-BUS-1: PARAM. -/
theorem test_read_param : (afterTurn (rd 0x00) hazard9).reply = some (1, .data 0x00402020) := by decide

/-- V-BUS-10: a 4-byte access at 0x1A. -/
theorem test_unaligned_access : (afterTurn (rd 0x1A) idle9).reply = some (1, .fault (.busError 0x1A 4)) := by decide

/-- V-HAZ-1: a write while busy. -/
theorem test_write_while_busy :
    (fun t : State => (t.dataLo, statusWord t)) (afterTurn (wr 0x18 0) hazard9) = (0xD, 0x00010003) := by decide

/-- V-BUS-8: the W1C of OVR is never blocked by BUSY. -/
theorem test_clear_ovr_while_busy :
    statusWord (afterTurn (wr 0x04 0x00010000) (setOvr hazard9)) = 0x00000003 := by decide

/-- V-RST-2: the first step after reset with a CMD write placed: ENCODE 4 gives NO_CODE. -/
theorem test_fetch_word_runs :
    statusWord (stateAfter (step (State.reset.withFetchWord 32 0x00000402)) State.reset) = 0x00000400 := by decide

/-- R6, R22: the fields of PARAM are the parameters. -/
theorem test_param_fields :
    (Config.paramWord.toNat % 2 ^ 8, Config.paramWord.toNat / 2 ^ 8 % 2 ^ 8, Config.paramWord.toNat / 2 ^ 16 % 2 ^ 8) =
      (Config.genW, Config.plenMax, Config.flenMax) := by decide

/-- The receiver of 95_test_vectors.md section 2.9: frame "1101100" with code 0x9. -/
theorem test_receiver_accepts :
    (receive 1 [true, true, false, true, true, false, false] idle9).2 = some .dataSuccess := by decide +kernel

/-- R76: `RD` keeps what it reads in its temporary; R77 `ENC`: the frame of V-ENC-1. -/
theorem test_host_program :
    (fun x : HostRun => (x.ended, x.temp 0, x.block.outLo)) (runOps 1 (encOps 0xD 4 ++ [.rd 0x2C 0]) idle9) =
      (true, some 0x4, 0x6C) := by decide

/-- 95_test_vectors.md P1, as one program from reset: the frame read into a temporary is written back and verified. -/
theorem test_program_p1 :
    (fun x : HostRun => (x.ended, x.temp 6, statusWord x.block, x.block.outLo, x.block.outLen))
      (runOps 1 (cfgOps (.const 0x9) ++ [wrConst 0x18 0xD, wrConst 0x08 0x00000402] ++ waitOps ++
        [.rd 0x20 6, .wr 0x18 (.temp 6), wrConst 0x08 0x00000703] ++ waitOps) State.reset) =
      (true, some 0x6C, 0x00000016, 0xD, 4) := by decide +kernel

/-- R76: a `POLL` that does not match repeats; what follows it does not run. -/
theorem test_poll_repeats :
    (runOps 1 [.poll 0x10 (.const 0xF) (.const 0x3), wrConst 0x18 0] idle9).todo =
      [.poll 0x10 (.const 0xF) (.const 0x3), wrConst 0x18 0] := by decide

/-- R180, R183: sender and receiver on one block, from reset: a corrupted frame, then an intact one: two sends. -/
theorem test_session_on_one_block :
    (fun y : Sending => (y.sent.length, y.retry, y.result))
      (session Config.maxAttempts { host := 1, code := 0x9 } { host := 2, code := 0x9 } 0xD 4
        [.altered [true, true, false, true, true, false, true], .intact] (.shared State.reset)) =
      (2, 0, some .success) := by decide +kernel

/-! ### Witnesses: states and operands that meet the hypotheses of the statements -/

theorem idle9_generator : GeneratorInv idle9 :=
  ⟨fun _ => by decide, fun h => by simp [idle9] at h⟩

theorem valid_9 : ValidGenerator 9 3 := by unfold ValidGenerator; decide

theorem valid_monomial : ValidGenerator 8 3 := by unfold ValidGenerator; decide

/-- The largest generator the divider takes: degree 31. -/
theorem valid_widest : ValidGenerator 0xFFFFFFFF 31 := by unfold ValidGenerator; decide

theorem admissible_enc : Job.admissible { op := .enc, n := 4, d := 0xD, g := 9, r := 3 } :=
  ⟨valid_9, by decide, fun _ => by decide, by simp⟩

theorem admissible_enc_widest : Job.admissible { op := .enc, n := 32, d := 0x80000001, g := 0xFFFFFFFF, r := 31 } :=
  ⟨valid_widest, by decide, fun _ => by decide, by simp⟩

theorem admissible_ver (n : Nat) (h1 : 7 ≤ n) (h2 : n ≤ 64) :
    Job.admissible { op := .ver, n := n, d := 0x6D, g := 9, r := 3 } :=
  ⟨valid_9, lt_of_lt_of_le (show 0x6D < 2 ^ 7 by decide) (Nat.pow_le_pow_right (by decide) h1), by simp,
    fun _ => ⟨by show 3 ≤ n; omega, h2⟩⟩

/-- EncodeCompletion, FrameIsPayloadThenChecksum. -/
theorem witness_encode_job : ∃ (s : State) (j : Job), s.job = some j ∧ j.op = .enc ∧ j.admissible :=
  ⟨hazard9, _, rfl, rfl, admissible_enc⟩

/-- VerifyCompletion, RemainderComparesTheSegments: the shortest and the longest frame. -/
theorem witness_verify_job :
    (∃ (s : State) (j : Job), s.job = some j ∧ j.op = .ver ∧ j.admissible ∧ j.n = 7) ∧
    (∃ (s : State) (j : Job), s.job = some j ∧ j.op = .ver ∧ j.admissible ∧ j.n = 64) :=
  ⟨⟨busy9 .ver 7 0x6D, _, rfl, rfl, admissible_ver 7 (by decide) (by decide), rfl⟩,
    ⟨busy9 .ver 64 0x6D, _, rfl, rfl, admissible_ver 64 (by decide) (by decide), rfl⟩⟩

/-- SingleBitFlipVerdict: the last bit of Scenario A's frame flipped. -/
theorem witness_flipped_frame :
    ∃ (s : State) (j : Job) (P n i : Nat), s.job = some j ∧ j.op = .ver ∧ j.admissible ∧ 1 ≤ n ∧ n ≤ 32 ∧ P < 2 ^ n ∧
      i < n + j.r.toNat ∧ j.n = n + j.r.toNat ∧ j.d.toNat = frame P n j.g.toNat j.r.toNat ^^^ 2 ^ i ∧
      j.g.toNat ≠ 2 ^ j.r.toNat :=
  ⟨busy9 .ver 7 0x6D, _, 0xD, 4, 0, rfl, rfl, admissible_ver 7 (by decide) (by decide), by decide, by decide, by decide,
    by decide, rfl, by decide, by decide⟩

/-- SingleBitFlipVerdict, the monomial clause, at its boundary i = r: V-DIV-9's shape with the generator "1000". -/
theorem witness_flipped_frame_monomial :
    ∃ (s : State) (j : Job) (P n i : Nat), s.job = some j ∧ j.op = .ver ∧ j.admissible ∧ 1 ≤ n ∧ n ≤ 32 ∧ P < 2 ^ n ∧
      i < n + j.r.toNat ∧ j.n = n + j.r.toNat ∧ j.d.toNat = frame P n j.g.toNat j.r.toNat ^^^ 2 ^ i ∧
      j.g.toNat = 2 ^ j.r.toNat ∧ j.r.toNat ≤ i :=
  ⟨{ idle9 with job := some { op := .ver, n := 7, d := 0x60, g := 8, r := 3 } }, _, 0xD, 4, 3, rfl, rfl,
    ⟨valid_monomial, by decide, by simp, fun _ => by decide⟩, by decide, by decide, by decide, by decide, rfl, by decide,
    by decide, by decide⟩

/-- SingleBitRemainders: both generators, and a bit on either side of r. -/
theorem witness_single_bits :
    (ValidGenerator 9 3 ∧ 6 < 7 ∧ 9 ≠ 2 ^ 3) ∧ (ValidGenerator 8 3 ∧ 2 < 7 ∧ 8 = 2 ^ 3) ∧ (ValidGenerator 8 3 ∧ 3 < 7) :=
  ⟨⟨valid_9, by decide, by decide⟩, ⟨valid_monomial, by decide, by decide⟩, ⟨valid_monomial, by decide⟩⟩

/-- RemainderFitsTheDegree, SeededDivisionAgrees, ShortDividendIsItsRemainder, LeadingZerosDoNotMatter,
RemainderIsThePolynomialRemainder, the second part of EncodeIsPure: dividends in range, n on either side of r. -/
theorem witness_dividends :
    2 ^ 3 ≤ 9 ∧ 9 < 2 ^ (3 + 1) ∧ 7 < 2 ^ 3 ∧ 3 ≤ 3 ∧ 0x68 < 2 ^ 7 ∧ ¬ 7 ≤ 3 ∧ ValidGenerator 9 3 :=
  ⟨by decide, by decide, by decide, by decide, by decide, by decide, valid_9⟩

/-- DecodeOfEncodeIsTheInstruction at both ends of the LEN field; DecodedWordIsItsEncoding. -/
theorem witness_commands :
    WellFormed (.encode 0) ∧ WellFormed (.encode 127) ∧ WellFormed (.verify 127) ∧ WellFormed .setgen ∧
      decode 0x00007F03 = .ok (.verify 127) := by decide

/-- DecodeFollowsTheOpcodeMap: a word for each branch and for the row clauses. -/
theorem witness_map_branches :
    (0x00000402 : Word) &&& 0xFFFF80FF = 0x00000002 ∧ (0x00007F03 : Word) &&& 0xFFFF80FF = 0x00000003 ∧
      (0x00000004 : Word) &&& 0xFFFF80FF ≠ 0x00000002 ∧ setgenRow.selects 0x00000001 = true ∧
      encodeRow.selects 0x00000402 = true := by decide

/-- IllegalWordsAndTheirOutcome, SampleCommandWords, and the idle clauses of CommandOutcomePriority: an ILLEGAL word on an
idle block. -/
theorem witness_illegal_idle : decode 0x00000004 = .error .unknownOpcode ∧ idle9.job = none := by decide

/-- CommandOutcomePriority, SetgenInstallsTheGenerator, RefusedSetgenKeepsTheGenerator, InstalledGeneratorIsValid: the
clauses of SETGEN on either side of 2, and BUSY. -/
theorem witness_setgen_clauses :
    hazard9.job ≠ none ∧ decode 0x00000001 = .ok .setgen ∧ idle9.job = none ∧
      ({ idle9 with genIn := 1 } : State).genIn.toNat < 2 ∧ ({ idle9 with genIn := 1 } : State).genIn = 1 ∧
      2 ≤ ({ idle9 with genIn := 2 } : State).genIn.toNat := by decide

/-- CommandOutcomePriority, EncodeStartsItsJob, EncodeRefusals: the clauses of ENCODE at the ends of its range. -/
theorem witness_encode_clauses :
    decode 0x00000002 = .ok (.encode 0) ∧ decode 0x00002102 = .ok (.encode 33) ∧ decode 0x00000102 = .ok (.encode 1) ∧
      decode 0x00002002 = .ok (.encode 32) ∧ State.reset.job = none ∧ State.reset.status.codeValid = false ∧
      idle9.job = none ∧ idle9.status.codeValid = true := by decide

/-- CommandOutcomePriority, VerifyStartsItsJob, VerifyRefusals: the clauses of VERIFY at the ends of its ranges (r = 3). -/
theorem witness_verify_clauses :
    decode 0x00004103 = .ok (.verify 65) ∧ decode 0x00004003 = .ok (.verify 64) ∧ decode 0x00000203 = .ok (.verify 2) ∧
      decode 0x00000303 = .ok (.verify 3) ∧ idle9.job = none ∧ idle9.status.codeValid = true ∧ 2 < idle9.genDeg.toNat ∧
      idle9.genDeg.toNat ≤ 3 ∧ State.reset.status.codeValid = false := by decide

/-- CommandsKeepOtherRegisters: each command on an idle block and on a busy one. -/
theorem witness_command_runs :
    (∃ t, exec .setgen idle9 = .next t) ∧ (∃ t, exec (.encode 4) idle9 = .next t) ∧
      (∃ t, exec (.verify 7) idle9 = .next t) ∧ (∃ t, exec (.verify 7) hazard9 = .next t) ∧ idle9.job = none ∧
      hazard9.job ≠ none :=
  ⟨⟨_, rfl⟩, ⟨_, rfl⟩, ⟨_, rfl⟩, ⟨_, rfl⟩, rfl, by decide⟩

/-- EncodeIsPure, VerifyIsStateless: two different states that agree on what the command reads. -/
theorem witness_two_states :
    ({ idle9 with dataLo := 0xFFFFFFFD } : State) ≠ idle9 ∧
      dataNat { idle9 with dataLo := 0xFFFFFFFD } % 2 ^ 4 = dataNat idle9 % 2 ^ 4 ∧ idle9.job = none ∧
      idle9.status.codeValid = true ∧ after (.verify 4) idle9 ≠ idle9 ∧ (after (.verify 4) idle9).job ≠ none := by decide

/-- EncodeVerifyRoundTrip, FramesOfExactlyDegreeBits, SenderSendsAtMostThree, ReceiverAnswersTheVerdict,
SentFrameIsAccepted: an idle block with a generator. -/
theorem witness_idle_configured :
    idle9.job = none ∧ idle9.status.codeValid = true ∧ GeneratorInv idle9 ∧ 1 ≤ 4 ∧ 4 ≤ 32 ∧ 0xD < 2 ^ 4 :=
  ⟨rfl, rfl, idle9_generator, by decide, by decide, by decide⟩

/-- ReceiverAnswersTheVerdict: strings for each clause (65 characters; no code; 2 and 3 characters against degree 3). -/
theorem witness_receiver_strings :
    64 < (List.replicate 65 false).length ∧ (List.replicate 64 false).length ≤ 64 ∧
      State.reset.status.codeValid = false ∧ GeneratorInv State.reset ∧ [true, false].length < idle9.genDeg.toNat ∧
      idle9.genDeg.toNat ≤ [true, false, false].length :=
  ⟨by decide, by decide, rfl, ⟨fun h => by simp [State.reset, Status.reset] at h, fun _ => ⟨rfl, rfl⟩⟩, by decide,
    by decide⟩

/-- StepRunsTheWrittenCommand. -/
theorem witness_cmd_write :
    WritesNext { idle9 with turns := [wr 0x08 0x00000402] } 1 0x08 0x00000402 [] ∧ decode 0x00000402 = .ok (.encode 4) :=
  ⟨rfl, by decide⟩

/-- ReadsAnswerTheRegisters, both clauses: an idle read of CHK, a busy read of GEN, a busy read of OUT_LO. -/
theorem witness_reads :
    (ReadsNext { idle9 with turns := [rd 0x2C] } 1 0x2C [] ∧ idle9.job = none) ∧
    (ReadsNext { hazard9 with turns := [rd 0x10] } 1 0x10 [] ∧ (0x10 : Offset) ∉ resultOffsets) ∧
    (ReadsNext { hazard9 with turns := [rd 0x20] } 1 0x20 [] ∧ hazard9.job ≠ none ∧ (0x20 : Offset) ∈ resultOffsets ∧
      (0x20 : Offset).toNat % 4 = 0) :=
  ⟨⟨rfl, rfl⟩, ⟨rfl, by decide⟩, ⟨rfl, by decide, by decide, by decide⟩⟩

/-- WritesReachTheRegisters, ReservedOffsetsReadZero at both ends of the reserved range. -/
theorem witness_writes :
    WritesNext { idle9 with turns := [wr 0x0C 2] } 1 0x0C 2 [] ∧ (0x0C : Offset).toNat % 4 = 0 ∧ (0x0C : Offset) ≠ 0x08 ∧
      ReadsNext { idle9 with turns := [rd 0x34] } 1 0x34 [] ∧ 0x34 ≤ (0x34 : Offset).toNat ∧
      WritesNext { idle9 with turns := [wr 0xFC 2] } 1 0xFC 2 [] ∧ (0xFC : Offset).toNat % 4 = 0 :=
  ⟨rfl, by decide, by decide, rfl, by decide, rfl, by decide⟩

/-- NotAdmittedAccessIsABusError: a byte access, and an unaligned word access. -/
theorem witness_not_admitted :
    ({ off := 0x18, size := 1, dir := .read } : Access).size ≠ 4 ∧
      ({ off := 0x1A, size := 4, dir := .read } : Access).off.toNat % 4 ≠ 0 := by decide

/-- WritesWhileBusyAreIgnored: one offset for each clause. -/
theorem witness_busy_writes :
    hazard9.job ≠ none ∧ WritesNext { hazard9 with turns := [wr 0x08 1] } 1 0x08 1 [] ∧
      WritesNext { hazard9 with turns := [wr 0x04 0x00010000] } 1 0x04 0x00010000 [] ∧
      WritesNext { hazard9 with turns := [wr 0x10 7] } 1 0x10 7 [] ∧
      (0x10 : Offset) ∉ [(0x04 : Offset), 0x08, 0x0C, 0x18, 0x1C] :=
  ⟨by decide, rfl, rfl, rfl, by decide⟩

/-- ResetFromEveryState, EngineStepEndsTheJob: the turns, with and without a job, with and without a presented access. -/
theorem witness_turns :
    ({ hazard9 with turns := [.reset none] } : State).turns = [.reset none] ∧
      ({ hazard9 with turns := [.engine] } : State).turns = [.engine] ∧ idle9.job = none ∧ hazard9.job ≠ none ∧
      (some (1, { off := 0x1A, size := 4, dir := Dir.read }) : Option (Nat × Access)) ≠ none := by decide

/-- LatencyDoesNotChangeResults: a job with two accesses before the engine's turn. -/
theorem witness_latency :
    ∃ (s : State) (j : Job), s.job = some j ∧
      s.turns = [(1, { off := 0x18, size := 4, dir := Dir.write 0 }), (2, { off := 0x20, size := 4, dir := Dir.read })].map
        (fun p => Turn.access p.1 p.2) ++ .engine :: [] :=
  ⟨{ hazard9 with turns := [wr 0x18 0, .access 2 { off := 0x20, size := 4, dir := .read }, .engine] }, _, rfl, rfl⟩

/-- A good state with a job in flight: EveryStepKeepsTheInvariant, GeneratorInvariantIsKept, JobsInFlightAreAdmissible. -/
theorem witness_inv : ∃ (s : State) (j : Job), Inv s ∧ s.job = some j ∧ ∃ t, step s = .next t := by
  refine ⟨hazard9, _, ⟨idle9_generator, ?_, ?_, ?_⟩, rfl, _, rfl⟩
  · intro j hj
    injection hj with hj
    subst hj
    exact ⟨rfl, rfl, rfl, by decide, fun _ => by decide, fun h => (by cases h), rfl, rfl, rfl⟩
  · unfold ResultInv; decide
  · unfold VerdictInv; decide

/-- The histories: a SETGEN that changes CODE_VALID and GEN, a reset that clears it, an ignored write that sets OVR, a
STATUS write that clears it, a completion that changes results and the verdict, a refused command that changes ERR. -/
theorem witness_histories :
    (afterTurn (wr 0x08 1) { State.reset with genIn := 9 }).status.codeValid = true ∧
      (afterTurn (wr 0x08 1) { State.reset with genIn := 9 }).gen ≠ State.reset.gen ∧
      (afterTurn (.reset none) idle9).status.codeValid = false ∧
      (afterTurn (wr 0x08 1) hazard9).status.ovr = true ∧
      (afterTurn (wr 0x04 0x00010000) (setOvr idle9)).status.ovr = false ∧
      regValue (afterTurn .engine hazard9) .chk ≠ regValue hazard9 .chk ∧
      (afterTurn .engine (busy9 .ver 7 0x6C)).status.ok ≠ (busy9 .ver 7 0x6C).status.ok ∧
      (afterTurn (wr 0x08 4) idle9).status.err ≠ idle9.status.err := by decide

/-- WaitRuleAvoidsHazards: a poll of STATUS while busy, and a CMD write while idle, keep the rule. -/
theorem witness_wait_rule :
    Access.keepsWaitRule { off := 0x04, size := 4, dir := .read } hazard9 ∧
      Access.keepsWaitRule { off := 0x08, size := 4, dir := .write 1 } idle9 :=
  ⟨fun _ => by decide, fun h => by simp [busy, idle9, State.reset] at h⟩

/-- HostNotationMeansItsAccesses: a program at each operation, with a constant and with a temporary that is set, one at an
unaligned offset, and one at a temporary that is not set. -/
theorem witness_host_ops :
    (HostRun.start [wrConst 0x0C 9] idle9).todo = [wrConst 0x0C 9] ∧
      ((HostRun.start [.wr 0x18 (.temp 1)] idle9).setTemp 1 7).value (.temp 1) = .ok 7 ∧
      (HostRun.start [.rd 0x10 1] idle9).error = none ∧ (HostRun.start [.rd 0x10 1] idle9).todo = [.rd 0x10 1] ∧
      (HostRun.start waitOps hazard9).todo = [.poll 0x04 (.const 1) (.const 0)] ∧ (0x04 : Offset).toNat % 4 = 0 ∧
      (HostRun.start [.rd 0x1A 1] idle9).resolve (.rd 0x1A 1) = .ok (.rd 0x1A 1) ∧
      (HostAct.rd 0x1A 1).access.off = 0x1A ∧ (0x1A : Offset).toNat % 4 ≠ 0 ∧
      (HostRun.start [.wr 0x18 (.temp 1)] idle9).temp 1 = none ∧
      (HostRun.start [.wr 0x18 (.temp 1)] idle9).value (.temp 1) = .error 1 := by decide

/-- SenderSendsAtMostThree, SentFrameIsAccepted: idle blocks, one and two, and a string the generator rejects by its
remainder; one of 65 characters and one of 2 are rejected by their length. -/
theorem witness_blocks :
    (Blocks.shared idle9).sender.job = none ∧ (Blocks.shared idle9).receiver.job = none ∧
      (Blocks.separate idle9 State.reset).sender.job = none ∧ (Blocks.separate idle9 State.reset).receiver.job = none ∧
      2 ≤ (0x9 : Word).toNat ∧ pmod (val [true, true, false]) 3 9 3 ≠ 0 ∧ 64 < (List.replicate 65 false).length ∧
      [true, false].length < bitlen 9 - 1 := by decide

/-- HostProgramsDoNotDependOnLatency: moves of every kind, under which `ENC` comes to its end. -/
theorem witness_host_moves :
    idle9.job = none ∧
      (∀ m ∈ [Move.own, .own, .own, .own, .other (.access 2 { off := 0x20, size := 4, dir := .read }), .other .engine, .own],
        m = .own ∨ m = .other .engine ∨ ∃ k a, m = .other (.access k a) ∧ a.dir = .read) ∧
      ((HostRun.start (encOps 0xD 4) idle9).play 1 [.own, .own, .own, .own,
        .other (.access 2 { off := 0x20, size := 4, dir := .read }), .other .engine, .own]).ended = true :=
  ⟨rfl, by simp, by decide⟩

/-- BitStringsRoundTrip: a value in range. -/
theorem witness_bits : 13 < 2 ^ 4 ∧ 4 < 2 ^ 3 := by decide

end Sys2Proof.Tests
end

/-! The rules of R8 for bit strings: the length and the value of the string of a pair, and the string of a
concatenation. -/

namespace Sys2Proof.Machine

@[simp] theorem length_bits (v n : Nat) : (bits v n).length = n := by
  induction n with
  | zero => rfl
  | succ n ih => rw [bits_succ, List.length_cons, ih]

/-- R8 `val(bits(v, n))` for every v: only the low n bits are in the string. -/
theorem val_bits (v n : Nat) : val (bits v n) = v % 2 ^ n := by
  induction n with
  | zero => simp [Nat.mod_one]
  | succ n ih => rw [bits_succ, val_cons, length_bits, ih, Nat.mod_pow_succ, Nat.toNat_testBit]; ring

theorem val_bits_of_lt {v n : Nat} (h : v < 2 ^ n) : val (bits v n) = v := by
  rw [val_bits, Nat.mod_eq_of_lt h]

@[simp] theorem val_false_cons (l : List Bool) : val (false :: l) = val l := by simp [val_cons]

/-- The string of n characters depends on the low n bits only. -/
theorem bits_congr {v w n : Nat} (h : ∀ i < n, v.testBit i = w.testBit i) : bits v n = bits w n := by
  induction n with
  | zero => rfl
  | succ n ih => rw [bits_succ, bits_succ, h n n.lt_succ_self, ih fun i hi => h i (hi.trans n.lt_succ_self)]

/-- R8 concatenation, low part: below bit nb, `(a << nb) xor b` has the bits of b. -/
theorem testBit_concatPair_low (a na b : Nat) {nb i : Nat} (h : i < nb) :
    (concatPair (a, na) (b, nb)).1.testBit i = b.testBit i := by
  simp [concatPair, Nat.testBit_shiftLeft, Nat.not_le.2 h]

/-- R8 concatenation, high part: from bit nb on, `(a << nb) xor b` has the bits of a, since b has none there. -/
theorem testBit_concatPair_high (a na i : Nat) {b nb : Nat} (h : b < 2 ^ nb) :
    (concatPair (a, na) (b, nb)).1.testBit (i + nb) = a.testBit i := by
  have hb : b.testBit (i + nb) = false := Nat.testBit_lt_two_pow (h.trans_le (Nat.pow_le_pow_right two_pos (by omega)))
  simp [concatPair, Nat.testBit_shiftLeft, hb]

/-- R8: the string of a concatenation is the concatenation of the strings. -/
theorem bits_concatPair (a na : Nat) {b nb : Nat} (h : b < 2 ^ nb) :
    bits (concatPair (a, na) (b, nb)).1 (na + nb) = bits a na ++ bits b nb := by
  induction na with
  | zero => rw [Nat.zero_add]; exact bits_congr fun i hi => testBit_concatPair_low a 0 b hi
  | succ na ih =>
    rw [Nat.succ_add, bits_succ, testBit_concatPair_high a (na + 1) na h, bits_succ, List.cons_append]
    exact congrArg _ ih

/-- Settles O55: the length, value and concatenation clauses are the lemmas above, by induction on the length. -/
theorem bitStringsRoundTrip : Obligations.BitStringsRoundTrip :=
  ⟨length_bits, fun _ _ => val_bits_of_lt, val_cons, val_nil, val_false_cons, by decide,
    fun a na _ _ h => bits_concatPair a na h⟩

end Sys2Proof.Machine

/-! What a step does to the generator: the three fields R35 speaks of, followed through every write and every turn. -/

namespace Sys2Proof.Machine

/-- The fields of the generator invariant: CODE_VALID, GEN and GEN_DEG (R26, R27, R35). -/
def generatorFields (s : State) : Bool × Word × BitVec 5 := (s.status.codeValid, s.gen, s.genDeg)

/-- The invariant depends on the generator fields only. -/
theorem GeneratorInv.of_generatorFields_eq {s t : State} (hs : GeneratorInv s)
    (h : generatorFields t = generatorFields s) : GeneratorInv t := by
  simp only [generatorFields, Prod.mk.injEq] at h
  obtain ⟨hc, hg, hd⟩ := h
  simpa only [GeneratorInv, hc, hg, hd] using hs

/-- R35 for the fields reset leaves. -/
theorem generatorInv_of_cleared {t : State} (h : generatorFields t = (false, 0, 0)) : GeneratorInv t := by
  simp only [generatorFields, Prod.mk.injEq] at h
  obtain ⟨hc, hg, hd⟩ := h
  exact ⟨fun h1 => absurd (hc.symm.trans h1) (by decide), fun _ => ⟨hg, hd⟩⟩

/-- The degree of a word of 2 or more is 1 to 31, so that the five bits of GEN_DEG hold it (R27, R92). -/
theorem bitlen_pred_mem_range {v : Word} (h : 2 ≤ v.toNat) : 1 ≤ bitlen v.toNat - 1 ∧ bitlen v.toNat - 1 ≤ 31 := by
  have hlo : 2 ≤ bitlen v.toNat := two_le_bitlen h
  have hhi : bitlen v.toNat ≤ 32 := bitlen_le_of_lt v.isLt
  omega

/-- GEN_DEG as SETGEN writes it reads as the degree (R27, R91). -/
theorem toNat_ofNat_bitlen_pred {v : Word} (h : 2 ≤ v.toNat) :
    (BitVec.ofNat 5 (bitlen v.toNat - 1)).toNat = bitlen v.toNat - 1 := by
  obtain ⟨-, h31⟩ := bitlen_pred_mem_range h
  rw [BitVec.toNat_ofNat]
  exact Nat.mod_eq_of_lt (by omega)

/-- R35 for the fields a successful SETGEN of v leaves. -/
theorem generatorInv_of_installed {t : State} {v : Word} (hv : 2 ≤ v.toNat)
    (h : generatorFields t = (true, v, BitVec.ofNat 5 (bitlen v.toNat - 1))) : GeneratorInv t := by
  simp only [generatorFields, Prod.mk.injEq] at h
  obtain ⟨hc, hg, hd⟩ := h
  obtain ⟨h1, h31⟩ := bitlen_pred_mem_range hv
  refine ⟨fun _ => ?_, fun h0 => absurd (hc.symm.trans h0) (by decide)⟩
  rw [hg, hd, toNat_ofNat_bitlen_pred hv]
  exact ⟨hv, rfl, h1, h31⟩

/-- A write keeps the generator fields, unless it is a SETGEN with no job in flight and an operand of 2 or more. -/
theorem WriteEffect.generatorFields_cases {off : Offset} {v : Word} {s t : State} (h : WriteEffect off v s t) :
    generatorFields t = generatorFields s ∨
    (off = 0x08 ∧ v = 0x00000001 ∧ s.job = none ∧ 2 ≤ s.genIn.toNat ∧
      generatorFields t = (true, s.genIn, BitVec.ofNat 5 (bitlen s.genIn.toNat - 1))) := by
  cases h with
  | installed ho hv hj hg => exact .inr ⟨ho, hv, hj, hg, rfl⟩
  | _ => exact .inl rfl

/-- Everything a step can do to the generator fields: keep them, install GEN_IN, or clear them by reset. -/
theorem step_generatorFields_cases {s t : State} (h : step s = .next t) :
    generatorFields t = generatorFields s ∨
    (∃ k rest, WritesNext s k 0x08 0x00000001 rest ∧ s.job = none ∧ 2 ≤ s.genIn.toNat ∧
      generatorFields t = (true, s.genIn, BitVec.ofNat 5 (bitlen s.genIn.toNat - 1))) ∨
    (∃ p rest, s.turns = .reset p :: rest ∧ generatorFields t = (false, 0, 0)) := by
  cases step_effect h with
  | engine _ => exact .inl (by simp [generatorFields])
  | reset p rest ht => exact .inr (.inr ⟨p, rest, ht, rfl⟩)
  | answered | drawn => exact .inl rfl
  | write k off v rest _ ht he =>
    rcases he.generatorFields_cases with hkept | ⟨rfl, rfl, hj, hg, hnew⟩
    · exact .inl hkept
    · exact .inr (.inl ⟨k, rest, ht, hj, hg, hnew⟩)

theorem reset_generatorInv : GeneratorInv State.reset := generatorInv_of_cleared rfl

theorem step_keeps_generatorInv {s t : State} (hs : GeneratorInv s) (h : step s = .next t) : GeneratorInv t := by
  rcases step_generatorFields_cases h with hkept | ⟨_, _, _, _, hg, hnew⟩ | ⟨_, _, _, hclear⟩
  · exact hs.of_generatorFields_eq hkept
  · exact generatorInv_of_installed hg hnew
  · exact generatorInv_of_cleared hclear

/-- CODE_VALID rises only by a successful SETGEN (R35). -/
theorem setgen_of_codeValid_rises {s t : State} (h : step s = .next t) (hs : s.status.codeValid = false)
    (ht : t.status.codeValid = true) :
    ∃ k rest, WritesNext s k 0x08 0x00000001 rest ∧ s.job = none ∧ 2 ≤ s.genIn.toNat := by
  rcases step_generatorFields_cases h with hkept | ⟨k, rest, hw, hj, hg, _⟩ | ⟨_, _, _, hclear⟩
  · have hc : t.status.codeValid = s.status.codeValid := congrArg Prod.fst hkept
    simp [hs, ht] at hc
  · exact ⟨k, rest, hw, hj, hg⟩
  · have hc : t.status.codeValid = false := congrArg Prod.fst hclear
    simp [ht] at hc

/-- CODE_VALID falls only by reset (R35). -/
theorem reset_of_codeValid_falls {s t : State} (h : step s = .next t) (hs : s.status.codeValid = true)
    (ht : t.status.codeValid = false) : ∃ p rest, s.turns = .reset p :: rest := by
  rcases step_generatorFields_cases h with hkept | ⟨_, _, _, _, _, hnew⟩ | ⟨p, rest, hr, _⟩
  · have hc : t.status.codeValid = s.status.codeValid := congrArg Prod.fst hkept
    simp [hs, ht] at hc
  · have hc : t.status.codeValid = true := congrArg Prod.fst hnew
    simp [ht] at hc
  · exact ⟨p, rest, hr⟩

/-- Settles O47: what a step can do to the generator fields decides both the invariant and CODE_VALID's two changes. -/
theorem generatorInvariantIsKept : Obligations.GeneratorInvariantIsKept :=
  ⟨reset_generatorInv, fun _ _ => step_keeps_generatorInv,
    fun _ _ h => ⟨setgen_of_codeValid_rises h, reset_of_codeValid_falls h⟩⟩

end Sys2Proof.Machine

/-! The word STATUS reads as (R23 to R25), its write, and the registers after reset (R46). -/

namespace Sys2Proof.Machine

/-- R23: what stands in bit i of STATUS. -/
theorem statusWord_getLsbD (s : State) (i : Nat) : (statusWord s).getLsbD i =
    if i = 0 then s.job.isSome
    else if i = 1 then s.status.codeValid
    else if i = 2 then s.status.ok
    else if 4 ≤ i ∧ i < 6 then s.status.result.code.getLsbD (i - 4)
    else if 8 ≤ i ∧ i < 12 then s.status.err.code.getLsbD (i - 8)
    else if i = 16 then s.status.ovr
    else false := by
  simp only [statusWord, busy, BitVec.getLsbD_append, BitVec.getLsbD_ofBool, BitVec.getLsbD_zero]
  rcases Nat.lt_or_ge i 17 with h | h
  · interval_cases i <;> simp
  · simp (disch := omega) only [if_neg]

/-- R24: bits 5:4 are the RESULT code. -/
theorem statusWord_extract_result (s : State) : (statusWord s).extractLsb' 4 2 = s.status.result.code := by
  refine BitVec.eq_of_getLsbD_eq fun i hi => ?_
  rw [BitVec.getLsbD_extractLsb', statusWord_getLsbD]
  simp (disch := omega) only [if_neg, if_pos, hi, decide_true, Bool.true_and, Nat.add_sub_cancel_left]

/-- R25: bits 11:8 are the ERR code. -/
theorem statusWord_extract_err (s : State) : (statusWord s).extractLsb' 8 4 = s.status.err.code := by
  refine BitVec.eq_of_getLsbD_eq fun i hi => ?_
  rw [BitVec.getLsbD_extractLsb', statusWord_getLsbD]
  simp (disch := omega) only [if_neg, if_pos, hi, decide_true, Bool.true_and, Nat.add_sub_cancel_left]

/-- R21, R23: the reserved bits read 0. -/
theorem statusWord_getLsbD_reserved (s : State) {i : Nat}
    (h : i = 3 ∨ i = 6 ∨ i = 7 ∨ (12 ≤ i ∧ i ≤ 15) ∨ 17 ≤ i) : (statusWord s).getLsbD i = false := by
  rw [statusWord_getLsbD]
  simp (disch := omega) only [if_neg]

/-- A field of a word, as a number (R7). -/
theorem toNat_div_mod_two_pow (w : Word) (p n : Nat) : w.toNat / 2 ^ p % 2 ^ n = (w.extractLsb' p n).toNat := by
  rw [BitVec.extractLsb'_toNat, Nat.shiftRight_eq_div_pow]

/-- A write turn at an aligned offset is acknowledged and is the write of R56. -/
theorem step_of_writesNext {s : State} {h : Nat} {off : Offset} {v : Word} {rest : List Turn}
    (hw : WritesNext s h off v rest) (ha : off.toNat % 4 = 0) :
    step s = memWrite off v { s with turns := rest, reply := some (h, .written) } := by
  have hadm : Access.admitted { off := off, size := 4, dir := .write v } = true := (admitted_iff _).2 ⟨rfl, ha⟩
  rw [WritesNext] at hw
  simp [step, hw, takeTurn, performAccess, hadm, answer]

/-- R23, R56: the write of STATUS, whether or not a job is in flight. -/
theorem memWrite_status (v : Word) (s : State) : memWrite Reg.status.offset v s =
    .next { s with status := { s.status with ovr := s.status.ovr && !v.getLsbD 16 } } := by
  simp only [memWrite, regAt_offset]
  cases v.getLsbD 16 <;> simp [clearOvr]

/-- Settles O37: each bit from the table of STATUS's bits, the two codes from their fields, the write from R56. -/
theorem statusWordLayout : Obligations.StatusWordLayout := by
  intro s
  refine ⟨statusWord_getLsbD s 0, statusWord_getLsbD s 1, statusWord_getLsbD s 2, ?_, ?_, statusWord_getLsbD s 16,
    fun _ => statusWord_getLsbD_reserved s, fun h v rest hw => ?_⟩
  · rw [toNat_div_mod_two_pow, statusWord_extract_result]
    cases s.status.result <;> rfl
  · rw [toNat_div_mod_two_pow, statusWord_extract_err]
    cases s.status.err <;> rfl
  · exact (step_of_writesNext hw (by decide)).trans (memWrite_status v _)

/-- Settles O39: register by register, by the reset state's fields. -/
theorem resetValues : Obligations.ResetValues := by
  refine ⟨fun r => ?_, rfl, rfl, rfl, rfl, rfl, rfl⟩
  cases r <;> rfl

end Sys2Proof.Machine

/-! The bus port (20_memory.md): the tables of R53 and R56 against the registers at the offsets, and what the step of one
access does. -/

namespace Sys2Proof.Machine

/-- R20: every register stands below the reserved offsets. -/
theorem Reg.offset_toNat_lt (r : Reg) : r.offset.toNat < 0x34 := by cases r <;> decide

/-- R54: from 0x34 on there is no register. -/
theorem regAt_of_reserved {off : Offset} (h : 0x34 ≤ off.toNat) : regAt off = none :=
  regAt_eq_none fun r hr => absurd (hr ▸ r.offset_toNat_lt) (Nat.not_lt.2 h)

theorem toNat_ne_offset_of_regAt_none {off : Offset} (h : regAt off = none) (r : Reg) :
    off.toNat ≠ r.offset.toNat := fun hr => by
  rw [BitVec.eq_of_toNat_eq hr, regAt_offset] at h
  cases h

/-- R53's table at the offset of a register is the value of that register. -/
theorem readTable_offset (r : Reg) (s : State) : readTable r.offset s = regValue s r := by cases r <;> rfl

/-- R53's table where no register stands. -/
theorem readTable_of_regAt_none {off : Offset} (h : regAt off = none) (s : State) : readTable off s = 0 := by
  have hne := toNat_ne_offset_of_regAt_none h
  unfold readTable
  split
  case h_1 ho => exact absurd ho (hne .param)
  case h_2 ho => exact absurd ho (hne .status)
  case h_3 ho => exact absurd ho (hne .genIn)
  case h_4 ho => exact absurd ho (hne .gen)
  case h_5 ho => exact absurd ho (hne .genDeg)
  case h_6 ho => exact absurd ho (hne .dataLo)
  case h_7 ho => exact absurd ho (hne .dataHi)
  case h_8 ho => exact absurd ho (hne .outLo)
  case h_9 ho => exact absurd ho (hne .outHi)
  case h_10 ho => exact absurd ho (hne .outLen)
  case h_11 ho => exact absurd ho (hne .chk)
  case h_12 ho => exact absurd ho (hne .rem)
  case h_13 => rfl

/-- R56's table where no register stands. -/
theorem writeTable_of_regAt_none {off : Offset} (h : regAt off = none) (v : Word) (s : State) :
    writeTable off v s = s := by
  have hne := toNat_ne_offset_of_regAt_none h
  unfold writeTable
  split
  case h_1 ho => exact absurd ho (hne .status)
  case h_2 ho => exact absurd ho (hne .genIn)
  case h_3 ho => exact absurd ho (hne .dataLo)
  case h_4 ho => exact absurd ho (hne .dataHi)
  case h_5 => rfl

/-- R53: the listed offsets are those of the result registers. -/
theorem offset_mem_resultOffsets (r : Reg) : r.offset ∈ resultOffsets ↔ r.isResult = true := by cases r <;> decide

theorem not_mem_resultOffsets_of_regAt_none {off : Offset} (h : regAt off = none) : off ∉ resultOffsets := by
  have hoffs : ∀ o ∈ resultOffsets, regAt o ≠ none := by decide
  exact fun ho => hoffs off ho h

/-- A read that draws no free value answers R53's table and changes nothing. -/
theorem memRead_eq_readTable {off : Offset} {s : State} (h : s.job = none ∨ off ∉ resultOffsets) :
    memRead off s = (readTable off s, s) := by
  rcases memRead_cases off s with ⟨hr, e⟩ | ⟨r, hr, -, e⟩ | ⟨r, hr, hres, hj, -⟩
  · rw [e, readTable_of_regAt_none hr]
  · rw [e, offset_of_regAt hr, readTable_offset]
  · rw [offset_of_regAt hr, offset_mem_resultOffsets] at h
    exact (h.elim hj fun hn => hn hres).elim

/-- R201: a result register read while a job is in flight answers a free value. -/
theorem memRead_result_busy {off : Offset} {s : State} (hj : s.job ≠ none) (ho : off ∈ resultOffsets) :
    memRead off s = (Config.anyRead s.draws, { s with draws := s.draws + 1 }) := by
  rcases memRead_cases off s with ⟨hr, -⟩ | ⟨r, hr, h, -⟩ | ⟨r, -, -, -, e⟩
  · exact absurd ho (not_mem_resultOffsets_of_regAt_none hr)
  · rw [offset_of_regAt hr, offset_mem_resultOffsets] at ho
    exact (h.elim (by simp [ho]) hj).elim
  · exact e

/-- R56, R200: a guarded write is done when no job is in flight, else it is ignored with OVR. -/
theorem guardedWrite_eq (f : State → State) (s : State) :
    guardedWrite f s = if s.job = none then f s else setOvr s := by
  split
  case isTrue h => exact guardedWrite_idle h f
  case isFalse h => exact guardedWrite_busy h f

theorem memWrite_cmd (v : Word) (s : State) : memWrite Reg.cmd.offset v s = commandWrite v s := by
  simp only [memWrite, regAt_offset]

/-- A write anywhere but at CMD is R56's table. -/
theorem memWrite_eq_writeTable {off : Offset} (h : off ≠ Reg.cmd.offset) (v : Word) (s : State) :
    memWrite off v s = .next (writeTable off v s) := by
  cases hr : regAt off with
  | none => simp only [memWrite, hr, writeTable_of_regAt_none hr]
  | some r =>
    obtain rfl := offset_of_regAt hr
    cases r
    case cmd => exact absurd rfl h
    case genIn | dataLo | dataHi => simp only [memWrite, hr, guardedWrite_eq]; rfl
    all_goals simp only [memWrite, hr]; rfl

/-- The table of writes neither reads nor writes the pending turns and the port's answer. -/
theorem writeTable_port (off : Offset) (v : Word) (s : State) (ts : List Turn) (p : Option (Nat × Reply)) :
    writeTable off v { s with turns := ts, reply := p } = { writeTable off v s with turns := ts, reply := p } := by
  unfold writeTable
  split
  case h_5 => rfl
  all_goals split <;> rfl

/-- The step of a host's turn is its access. -/
theorem step_of_access {s : State} {h : Nat} {a : Access} {rest : List Turn} (ht : s.turns = .access h a :: rest) :
    step s = performAccess h a { s with turns := rest, reply := none } := by
  simp only [step, ht, takeTurn]

/-- A read turn at an aligned offset is answered with the value of the read of R53. -/
theorem step_of_readsNext {s : State} {h : Nat} {off : Offset} {rest : List Turn} {v : Word} {b : State}
    (hr : ReadsNext s h off rest) (ha : off.toNat % 4 = 0)
    (hm : memRead off { s with turns := rest, reply := none } = (v, b)) :
    step s = .next (answer h (.data v) b) := by
  have hadm : Access.admitted { off := off, size := 4, dir := .read } = true := (admitted_iff _).2 ⟨rfl, ha⟩
  simp only [step_of_access hr, performAccess, hadm, if_true, hm]

/-- R55: an access that is not admitted. -/
theorem performAccess_of_not_admitted {a : Access} (ha : a.size ≠ 4 ∨ a.off.toNat % 4 ≠ 0) (h : Nat) (s : State) :
    performAccess h a s = .next (answer h (.fault (.busError a.off a.size)) s) := by
  have hadm : ¬ a.admitted = true := by rw [admitted_iff]; omega
  exact if_neg hadm

/-- Settles O32: the two kinds of read of R53, each at the state with its turn taken off. -/
theorem readsAnswerTheRegisters : Obligations.ReadsAnswerTheRegisters := fun _ _ _ _ hr ha =>
  ⟨fun h => step_of_readsNext hr ha (memRead_eq_readTable h),
    fun hj ho => step_of_readsNext hr ha (memRead_result_busy hj ho)⟩

/-- Settles O33: the write of the access is R56's table, or the command write at CMD. -/
theorem writesReachTheRegisters : Obligations.WritesReachTheRegisters := by
  intro s h off v rest hw ha
  rw [step_of_writesNext hw ha]
  refine ⟨fun hne => ?_, ?_⟩
  · rw [memWrite_eq_writeTable hne, writeTable_port]
  · rintro rfl
    exact memWrite_cmd v _

/-- Settles O34: both tables where no register stands. -/
theorem reservedOffsetsReadZero : Obligations.ReservedOffsetsReadZero := by
  intro s h off v rest ho ha
  have hr : regAt off = none := regAt_of_reserved ho
  refine ⟨fun hread => ?_, fun hwrite => ?_⟩
  · have hstep := (readsAnswerTheRegisters s h off rest hread ha).1 (.inr (not_mem_resultOffsets_of_regAt_none hr))
    rwa [readTable_of_regAt_none hr] at hstep
  · have hne : off ≠ 0x08 := by rintro rfl; exact absurd ho (by decide)
    have hstep := (writesReachTheRegisters s h off v rest hwrite ha).1 hne
    rwa [writeTable_of_regAt_none hr] at hstep

/-- Settles O35: the step is the access, and the port answers one that is not admitted with the bus error. -/
theorem notAdmittedAccessIsABusError : Obligations.NotAdmittedAccessIsABusError := fun _ h _ _ ht ha =>
  (step_of_access ht).trans (performAccess_of_not_admitted ha h _)

end Sys2Proof.Machine

/-! The command word (30_encoding.md): its four fields, the rows they select, and what the words that select none do. -/

namespace Sys2Proof.Machine

/-- R70: a word is the concatenation of its fields. -/
theorem fields_append (w : Word) : z1Field w ++ (lenField w ++ (z0Field w ++ opcField w)) = w := by
  simp only [z1Field, lenField, z0Field, opcField]
  rw [BitVec.extractLsb'_append_extractLsb'_eq_extractLsb' (by rfl),
    BitVec.extractLsb'_append_extractLsb'_eq_extractLsb' (by rfl),
    BitVec.extractLsb'_append_extractLsb'_eq_extractLsb' (by rfl)]
  exact BitVec.extractLsb'_eq_self

/-- R70: a word is known by its fields. -/
theorem eq_iff_fields_eq {v w : Word} :
    v = w ↔ z1Field v = z1Field w ∧ lenField v = lenField w ∧ z0Field v = z0Field w ∧ opcField v = opcField w := by
  refine ⟨fun h => by simp [h], fun ⟨hz1, hlen, hz0, hopc⟩ => ?_⟩
  rw [← fields_append v, hz1, hlen, hz0, hopc, fields_append]

/-- R71: the mask of ENCODE and VERIFY clears LEN and keeps the other fields. -/
theorem and_lenMask_eq_iff (w p : Word) : w &&& 0xFFFF80FF = p ↔
    z1Field w = z1Field p ∧ lenField p = 0 ∧ z0Field w = z0Field p ∧ opcField w = opcField p := by
  have hz1 : z1Field (w &&& 0xFFFF80FF) = z1Field w := BitVec.extractLsb'_and.trans BitVec.and_allOnes
  have hlen : lenField (w &&& 0xFFFF80FF) = 0 := BitVec.extractLsb'_and.trans BitVec.and_zero
  have hz0 : z0Field (w &&& 0xFFFF80FF) = z0Field w := BitVec.extractLsb'_and.trans BitVec.and_allOnes
  have hopc : opcField (w &&& 0xFFFF80FF) = opcField w := BitVec.extractLsb'_and.trans BitVec.and_allOnes
  rw [eq_iff_fields_eq, hz1, hlen, hz0, hopc, eq_comm (a := 0)]

/-! Which words select a row: by the row's two words, and by the fields. -/

theorem setgenRow_selects {w : Word} : setgenRow.selects w = true ↔ w = 0x00000001 := by
  have hmask : w &&& setgenRow.mask = w := BitVec.and_allOnes
  rw [TableRow.selects, hmask]
  exact beq_iff_eq

theorem encodeRow_selects {w : Word} : encodeRow.selects w = true ↔ w &&& 0xFFFF80FF = 0x00000002 := beq_iff_eq

theorem verifyRow_selects {w : Word} : verifyRow.selects w = true ↔ w &&& 0xFFFF80FF = 0x00000003 := beq_iff_eq

theorem setgenRow_selects_iff_fields {w : Word} : setgenRow.selects w = true ↔
    z1Field w = 0 ∧ lenField w = 0 ∧ z0Field w = 0 ∧ opcField w = 1 := setgenRow_selects.trans eq_iff_fields_eq

theorem encodeRow_selects_iff_fields {w : Word} : encodeRow.selects w = true ↔
    z1Field w = 0 ∧ z0Field w = 0 ∧ opcField w = 2 := by
  rw [encodeRow_selects, and_lenMask_eq_iff]
  exact and_congr_right fun _ => and_iff_right rfl

theorem verifyRow_selects_iff_fields {w : Word} : verifyRow.selects w = true ↔
    z1Field w = 0 ∧ z0Field w = 0 ∧ opcField w = 3 := by
  rw [verifyRow_selects, and_lenMask_eq_iff]
  exact and_congr_right fun _ => and_iff_right rfl

/-! R73: `Decode`, row by row. The rows are disjoint, so that one row decides. -/

theorem encodeRow_not_selects_of_setgenRow {w : Word} (h : setgenRow.selects w = true) :
    encodeRow.selects w = false := by
  rw [setgenRow_selects.1 h]; rfl

theorem verifyRow_not_selects_of_setgenRow {w : Word} (h : setgenRow.selects w = true) :
    verifyRow.selects w = false := by
  rw [setgenRow_selects.1 h]; rfl

theorem verifyRow_not_selects_of_encodeRow {w : Word} (h : encodeRow.selects w = true) :
    verifyRow.selects w = false := by
  rw [← Bool.not_eq_true, verifyRow_selects, encodeRow_selects.1 h]
  decide

theorem decode_of_setgenRow {w : Word} (h : setgenRow.selects w = true) : decode w = .ok .setgen := if_pos h

theorem decode_of_encodeRow {w : Word} (h : encodeRow.selects w = true) :
    decode w = .ok (.encode (lenField w).toNat) := by
  have hs : ¬ setgenRow.selects w = true := fun hs => by simp [encodeRow_not_selects_of_setgenRow hs] at h
  exact (if_neg hs).trans (if_pos h)

theorem decode_of_verifyRow {w : Word} (h : verifyRow.selects w = true) :
    decode w = .ok (.verify (lenField w).toNat) := by
  have hs : ¬ setgenRow.selects w = true := fun hs => by simp [verifyRow_not_selects_of_setgenRow hs] at h
  have he : ¬ encodeRow.selects w = true := fun he => by simp [verifyRow_not_selects_of_encodeRow he] at h
  exact (if_neg hs).trans ((if_neg he).trans (if_pos h))

/-- R74: a word is rejected exactly when it selects no row. -/
theorem exists_decode_eq_error_iff {w : Word} : (∃ e, decode w = .error e) ↔
    ¬ setgenRow.selects w = true ∧ ¬ encodeRow.selects w = true ∧ ¬ verifyRow.selects w = true := by
  unfold decode
  split_ifs with h1 h2 h3 <;> simp [*]

/-- R74 on the fields of the word. -/
theorem exists_decode_eq_error_iff_fields {w : Word} : (∃ e, decode w = .error e) ↔
    (opcField w).toNat = 0 ∨ 4 ≤ (opcField w).toNat ∨ (z0Field w).toNat ≠ 0 ∨ (z1Field w).toNat ≠ 0 ∨
      ((opcField w).toNat = 1 ∧ (lenField w).toNat ≠ 0) := by
  rw [exists_decode_eq_error_iff, setgenRow_selects_iff_fields, encodeRow_selects_iff_fields,
    verifyRow_selects_iff_fields]
  bv_omega

/-- R74 on the number w. -/
theorem exists_decode_eq_error_iff_toNat {w : Word} : (∃ e, decode w = .error e) ↔
    w.toNat % 16 = 0 ∨ 4 ≤ w.toNat % 16 ∨ w.toNat / 2 ^ 4 % 2 ^ 4 ≠ 0 ∨ w.toNat / 2 ^ 15 ≠ 0 ∨
      (w.toNat % 16 = 1 ∧ w.toNat / 2 ^ 8 % 2 ^ 7 ≠ 0) := by
  have hopc : (opcField w).toNat = w.toNat % 16 := BitVec.extractLsb'_toNat ..
  have hz0 : (z0Field w).toNat = w.toNat / 2 ^ 4 % 2 ^ 4 := (toNat_div_mod_two_pow w 4 4).symm
  have hlen : (lenField w).toNat = w.toNat / 2 ^ 8 % 2 ^ 7 := (toNat_div_mod_two_pow w 8 7).symm
  have hz1 : (z1Field w).toNat = w.toNat / 2 ^ 15 := by
    rw [z1Field, ← toNat_div_mod_two_pow]
    have hw : w.toNat < 2 ^ 32 := w.isLt
    omega
  rw [exists_decode_eq_error_iff_fields, hopc, hz0, hz1, hlen]

/-! R162 to R164: the CMD write of a word with no job in flight. -/

theorem commandWrite_of_decode_eq_ok {w : Word} {i : Instr} (h : decode w = .ok i) (s : State) :
    commandWrite w s = exec i s := by
  simp only [commandWrite, h]

/-- R164: an ILLEGAL word on an idle block. -/
theorem commandWrite_illegal {w : Word} {e : IllegalWord} {s : State} (h : decode w = .error e) (hj : s.job = none) :
    commandWrite w s = .next (raiseCmdError .illegalCmd (issueClear s)) := by
  simp only [commandWrite, h, execIllegal, issue_idle hj]

/-- R121: an ENCODE of a length outside 1 to 32 on an idle block. -/
theorem exec_encode_lenInvalid {n : Nat} {s : State} (hn : n < 1 ∨ 32 < n) (hj : s.job = none) :
    exec (.encode n) s = .next (raiseCmdError .lenInvalid (issueClear s)) := by
  have hc : encodeCommand n (issueClear s) = raiseCmdError .lenInvalid (issueClear s) := if_pos hn
  simp only [exec, execEncode, issue_idle hj, hc]

/-- R141: a VERIFY of a length above 64 on an idle block. -/
theorem exec_verify_lenInvalid {n : Nat} {s : State} (hn : 64 < n) (hj : s.job = none) :
    exec (.verify n) s = .next (raiseCmdError .lenInvalid (issueClear s)) := by
  have hc : verifyCommand n (issueClear s) = raiseCmdError .lenInvalid (issueClear s) := if_pos hn
  simp only [exec, execVerify, issue_idle hj, hc]

/-- R161, R163: a command error raised after the issue-time clearing. -/
theorem raiseCmdError_issueClear (e : ErrCode) (s : State) :
    raiseCmdError e (issueClear s) = { s with status := statusAfterIssue s.status .noResult e } := rfl

/-- Settles O4: the rows on the fields of the word give the list of R74, and the illegal arm gives its outcome. -/
theorem illegalWordsAndTheirOutcome : Obligations.IllegalWordsAndTheirOutcome := by
  refine ⟨fun _ => exists_decode_eq_error_iff_toNat, fun w e s he hj => ?_,
    exists_decode_eq_error_iff_toNat.2 (by decide)⟩
  rw [commandWrite_illegal he hj, raiseCmdError_issueClear]

/-- Settles O3: a case split along the rows, whose selection is the comparison the rule writes. -/
theorem decodeFollowsTheOpcodeMap : Obligations.DecodeFollowsTheOpcodeMap := by
  refine ⟨fun w => ?_, fun w => ⟨fun h => ⟨encodeRow_not_selects_of_setgenRow h, verifyRow_not_selects_of_setgenRow h⟩,
    verifyRow_not_selects_of_encodeRow⟩⟩
  simp only [toNat_div_mod_two_pow, ← setgenRow_selects, ← encodeRow_selects, ← verifyRow_selects]
  split_ifs with h1 h2 h3
  · exact decode_of_setgenRow h1
  · exact decode_of_encodeRow h2
  · exact decode_of_verifyRow h3
  · exact exists_decode_eq_error_iff.2 ⟨h1, h2, h3⟩

/-- Settles O5: the fixed words by computation, the two refused commands by the length checks, the rejected words by
R74's list. -/
theorem sampleCommandWords : Obligations.SampleCommandWords := by
  refine ⟨rfl, rfl, rfl, rfl, rfl, rfl, rfl, rfl, rfl, rfl, rfl, rfl, rfl, rfl, rfl, rfl, fun s hj w hw => ?_,
    fun w hw => exists_decode_eq_error_iff_toNat.2 ?_⟩
  · rw [← raiseCmdError_issueClear]
    rcases hw with rfl | rfl
    · rw [commandWrite_of_decode_eq_ok (i := .encode 33) rfl]
      exact exec_encode_lenInvalid (by decide) hj
    · rw [commandWrite_of_decode_eq_ok (i := .verify 127) rfl]
      exact exec_verify_lenInvalid (by decide) hj
  · rcases hw with rfl | rfl | rfl | rfl <;> decide

end Sys2Proof.Machine

/-! SETGEN with no job in flight (R91 to R94): its two outcomes, and the generator a successful one leaves. -/

namespace Sys2Proof.Machine

theorem exec_setgen_idle {s : State} (hj : s.job = none) :
    exec .setgen s = .next (setgenCommand (issueClear s)) := by
  simp only [exec, execSetgen, issue_idle hj]

/-- Everything SETGEN can do on an idle block (R91): refuse GEN_IN of 0 or 1, or install it. -/
theorem exec_setgen_cases {s : State} (hj : s.job = none) :
    (s.genIn.toNat < 2 ∧ exec .setgen s = .next (raiseCmdError .genInvalid (issueClear s))) ∨
    (2 ≤ s.genIn.toNat ∧ exec .setgen s = .next (installGenerator s.genIn (issueClear s))) := by
  rw [exec_setgen_idle hj]
  exact (setgenCommand_cases (issueClear s)).imp
    (fun ⟨hg, e⟩ => ⟨hg, congrArg _ e⟩) (fun ⟨hg, e⟩ => ⟨hg, congrArg _ e⟩)

theorem exec_setgen_refused {s : State} (hj : s.job = none) (hg : s.genIn.toNat < 2) :
    exec .setgen s = .next (raiseCmdError .genInvalid (issueClear s)) :=
  (exec_setgen_cases hj).elim And.right fun ⟨h, _⟩ => absurd hg (Nat.not_lt.2 h)

theorem exec_setgen_installs {s : State} (hj : s.job = none) (hg : 2 ≤ s.genIn.toNat) :
    exec .setgen s = .next (installGenerator s.genIn (issueClear s)) :=
  (exec_setgen_cases hj).elim (fun ⟨h, _⟩ => absurd h (Nat.not_lt.2 hg)) And.right

/-- R92: a word of 2 or more and its degree are a pair R100 gives the divider for: the top bit stands at the degree. -/
theorem validGenerator_bitlen_pred {v : Word} (h : 2 ≤ v.toNat) : ValidGenerator v.toNat (bitlen v.toNat - 1) := by
  obtain ⟨h1, h31⟩ := bitlen_pred_mem_range h
  have htop : v.toNat < 2 ^ (bitlen v.toNat - 1 + 1) := by
    rw [Nat.sub_add_cancel (by omega)]
    exact lt_two_pow_bitlen v.toNat
  exact ⟨h1, h31, two_pow_bitlen_pred_le (by omega), htop⟩

/-- Settles O10: in each of SETGEN's two outcomes the ERR is read off the state, and an installed pair is valid. -/
theorem installedGeneratorIsValid : Obligations.InstalledGeneratorIsValid := by
  intro s hj
  rcases exec_setgen_cases hj with ⟨hg, e⟩ | ⟨hg, e⟩
  · exact ⟨_, e, by simpa using hg, fun h => absurd hg (Nat.not_lt.2 h), fun _ => rfl⟩
  · refine ⟨_, e, by simpa using hg, fun _ => ⟨rfl, ?_⟩, fun h => absurd h (Nat.not_lt.2 hg)⟩
    rw [installGenerator_gen, installGenerator_genDeg, toNat_ofNat_bitlen_pred hg]
    exact validGenerator_bitlen_pred hg

/-- Settles O8: the degree fits GEN_DEG's five bits, and each outcome is the state written out. -/
theorem setgenInstallsTheGenerator : Obligations.SetgenInstallsTheGenerator := by
  intro s hj
  refine ⟨fun hg => ?_, fun hg => (exec_setgen_refused hj hg).trans (congrArg _ (raiseCmdError_issueClear _ s))⟩
  have hdeg := toNat_ofNat_bitlen_pred hg
  obtain ⟨h1, h31⟩ := bitlen_pred_mem_range hg
  exact ⟨_, hdeg, h1.trans_eq hdeg.symm, hdeg.trans_le h31, exec_setgen_installs hj hg⟩

/-- Settles O9: 0 and 1 are the values below 2, and raising an error writes ERR only. -/
theorem refusedSetgenKeepsTheGenerator : Obligations.RefusedSetgenKeepsTheGenerator := by
  intro s hj h01
  have hg : s.genIn.toNat < 2 := by rcases h01 with h | h <;> simp [h]
  exact ⟨_, exec_setgen_refused hj hg, rfl, rfl, rfl, rfl⟩

end Sys2Proof.Machine

/-! The laws of the division loop on numbers (41_divider.md): its range (R102), short and zero-extended dividends (R105,
R106), the source's seeded loop (R101), and linearity (R107). -/

namespace Sys2Proof.Machine

/-! R102: the register's range. -/

theorem shiftRight_one_lt_two_pow {D n : Nat} (h : D < 2 ^ (n + 1)) : D >>> 1 < 2 ^ n := by
  rw [Nat.shiftRight_one]; omega

/-- A generator of degree r has a bit r of 1. -/
theorem testBit_degree {G r : Nat} (hlo : 2 ^ r ≤ G) (hhi : G < 2 ^ (r + 1)) : G.testBit r = true :=
  Nat.testBit_of_two_pow_le_and_two_pow_add_one_gt hlo hhi

theorem lt_two_pow_of_testBit_eq_false {R r : Nat} (hR : R < 2 ^ (r + 1)) (hb : R.testBit r = false) : R < 2 ^ r := by
  by_contra hge
  simp [testBit_degree (Nat.not_lt.1 hge) hR] at hb

/-- R102: after the conditional XOR bit r is clear, and neither operand has a higher one. -/
theorem reduce_lt {G r R : Nat} (hlo : 2 ^ r ≤ G) (hhi : G < 2 ^ (r + 1)) (hR : R < 2 ^ (r + 1)) :
    reduce G r R < 2 ^ r := by
  rw [reduce]
  split_ifs with hb
  · exact lt_two_pow_of_testBit_eq_false (Nat.xor_lt_two_pow hR hhi) (by simp [hb, testBit_degree hlo hhi])
  · exact lt_two_pow_of_testBit_eq_false hR (by simpa using hb)

theorem pmod_lt {G r : Nat} (hlo : 2 ^ r ≤ G) (hhi : G < 2 ^ (r + 1)) (D n : Nat) : pmod D n G r < 2 ^ r := by
  induction n generalizing D with
  | zero => exact Nat.two_pow_pos r
  | succ n ih => rw [pmod_succ]; exact reduce_lt hlo hhi (shiftIn_lt (ih _))

/-- Settles O16: a shift leaves r + 1 bits and the reduction r of them; the r-bit string of such a value keeps it. -/
theorem remainderFitsTheDegree : Obligations.RemainderFitsTheDegree := fun _ _ hlo hhi =>
  ⟨fun _ _ _ hR => reduce_lt hlo hhi (shiftIn_lt hR),
    fun D n => ⟨pmod_lt hlo hhi D n, length_bits _ _, val_bits_of_lt (pmod_lt hlo hhi D n)⟩⟩

/-! R105, R106: dividends without a reduction, and leading zeros. -/

/-- The last bit shifted into the other bits gives the number back. -/
theorem shiftIn_zero_shiftRight (D : Nat) : shiftIn D 0 (D >>> 1) = D := by
  rw [shiftIn_eq, Nat.shiftRight_one, Nat.toNat_testBit, pow_zero, Nat.div_one, Nat.div_add_mod]

theorem pmod_of_len_le {D n r : Nat} (G : Nat) (hn : n ≤ r) (hD : D < 2 ^ n) : pmod D n G r = D := by
  induction n generalizing D with
  | zero => rw [pmod_zero_len]; omega
  | succ n ih =>
    rw [pmod_succ, ih (by omega) (shiftRight_one_lt_two_pow hD), shiftIn_zero_shiftRight]
    exact reduce_of_lt (hD.trans_le (Nat.pow_le_pow_right two_pos hn))

@[simp] theorem pmod_zero_left (n G r : Nat) : pmod 0 n G r = 0 := by
  induction n with
  | zero => rfl
  | succ n ih => rw [pmod_succ, Nat.zero_shiftRight, ih]; exact reduce_zero G r

/-- R106: the k leading zeros leave the zero register with which the other n bits begin. -/
theorem pmod_add_len {D n : Nat} (k G r : Nat) (hD : D < 2 ^ n) : pmod D (n + k) G r = pmod D n G r := by
  have hlead : D >>> n = 0 := Nat.shiftRight_eq_zero D n hD
  have hzero : divideFrom 0 G r k 0 = 0 := pmod_zero_left k G r
  rw [pmod, Nat.add_comm, divideFrom_add, hlead, hzero, pmod]

/-- Settles O18: by induction on the length, since no register of the loop has a bit r. -/
theorem shortDividendIsItsRemainder : Obligations.ShortDividendIsItsRemainder :=
  ⟨fun _ _ G _ hn hD => pmod_of_len_le G hn hD, pmod_zero_len 0⟩

/-- Settles O19: the loop is cut after the leading zeros. -/
theorem leadingZerosDoNotMatter : Obligations.LeadingZerosDoNotMatter :=
  ⟨fun _ _ k G r hD => pmod_add_len k G r hD, pmod_zero_left⟩

/-! R101: the seeded loop. -/

/-- The two loops are one, cut at different points: the seeded one begins after a shift and ends with a reduction. -/
theorem seededFrom_shiftIn (D G r k R : Nat) :
    seededFrom D G r k (shiftIn D k R) = divideFrom D G r (k + 1) R := by
  induction k generalizing R with
  | zero => rfl
  | succ k ih => rw [seededFrom, ih, ← divideFrom_succ]

/-- R101: the seed, the leading r + 1 bits of D, is what the first r bits leave after one more shift. -/
theorem seed_eq_shiftIn {D r k : Nat} (hD : D < 2 ^ (k + 1 + r)) :
    D >>> k % 2 ^ (r + 1) = shiftIn D k (D >>> (k + 1)) := by
  have hlt : D >>> k < 2 ^ (r + 1) := by
    rw [Nat.shiftRight_eq_div_pow]
    refine Nat.div_lt_of_lt_mul (hD.trans_eq ?_)
    rw [← pow_add]; congr 1; omega
  have hbit : D.testBit k = (D >>> k).testBit 0 := by simp
  rw [Nat.mod_eq_of_lt hlt, shiftIn, hbit, Nat.shiftRight_add]
  exact (shiftIn_zero_shiftRight (D >>> k)).symm

/-- R101 for a dividend with k bits after the seed. -/
theorem pmodSrc_of_seeded {D k r : Nat} (G : Nat) (hD : D < 2 ^ (k + 1 + r)) :
    pmodSrc D (k + 1 + r) G r = pmod D (k + 1 + r) G r := by
  have hlen : ¬ k + 1 + r ≤ r := by omega
  have hrest : k + 1 + r - r - 1 = k := by omega
  have hlead : D >>> (k + 1) < 2 ^ r := by
    rw [Nat.shiftRight_eq_div_pow]
    exact Nat.div_lt_of_lt_mul (hD.trans_eq (pow_add ..))
  have hfirst : divideFrom (D >>> (k + 1)) G r r 0 = D >>> (k + 1) := pmod_of_len_le G le_rfl hlead
  rw [pmodSrc, if_neg hlen, hrest, seed_eq_shiftIn hD, seededFrom_shiftIn, pmod, Nat.add_comm (k + 1) r,
    divideFrom_add (i := r), hfirst]

/-- Settles O17: a short dividend is its own remainder, and a longer one is cut after its first r bits. -/
theorem seededDivisionAgrees : Obligations.SeededDivisionAgrees := by
  intro D n G r hD
  by_cases hn : n ≤ r
  · rw [pmodSrc, if_pos hn, pmod_of_len_le G hn hD]
  · obtain ⟨k, rfl⟩ : ∃ k, n = k + 1 + r := ⟨n - r - 1, by omega⟩
    exact pmodSrc_of_seeded G hD

/-! R107: linearity. -/

theorem shiftIn_xor (A B i R S : Nat) : shiftIn (A ^^^ B) i (R ^^^ S) = shiftIn A i R ^^^ shiftIn B i S := by
  have hbit : ((A ^^^ B).testBit i).toNat = (A.testBit i).toNat ^^^ (B.testBit i).toNat := by
    rw [Nat.testBit_xor]
    cases A.testBit i <;> cases B.testBit i <;> rfl
  rw [shiftIn, shiftIn, shiftIn, hbit, Nat.shiftLeft_xor_distrib]
  ac_rfl

theorem reduce_xor (G r R S : Nat) : reduce G r (R ^^^ S) = reduce G r R ^^^ reduce G r S := by
  simp only [reduce, Nat.testBit_xor]
  cases R.testBit r <;> cases S.testBit r
  · rfl
  · exact Nat.xor_assoc ..
  · exact Nat.xor_right_comm ..
  · have hG : G ^^^ G = 0 := Nat.xor_self G
    calc R ^^^ S = R ^^^ S ^^^ (G ^^^ G) := by rw [hG, Nat.xor_zero]
      _ = (R ^^^ G) ^^^ (S ^^^ G) := by ac_rfl

theorem pmod_xor (A B n G r : Nat) : pmod (A ^^^ B) n G r = pmod A n G r ^^^ pmod B n G r := by
  induction n generalizing A B with
  | zero => simp
  | succ n ih => simp only [pmod_succ, Nat.shiftRight_xor_distrib, ih, shiftIn_xor, reduce_xor]

/-- Settles O20: by induction on the length, since a shift and a reduction are linear. -/
theorem remainderIsLinear : Obligations.RemainderIsLinear := by
  refine fun A B n G r => ⟨pmod_xor A B n G r, ?_⟩
  rw [pmod_xor]
  exact ⟨fun h => Nat.xor_right_injective (h.trans (Nat.xor_zero _).symm), fun h => by rw [h, Nat.xor_zero]⟩

end Sys2Proof.Machine

/-! The remainder as a polynomial (41_divider.md R103, R108): the division loop computes `%ₘ` over GF(2). -/

namespace Sys2Proof.Machine

open Polynomial

/-! The polynomial of a value: coefficient i is bit i, so that `xor` is addition and a shift multiplies by X. -/

theorem testBit_of_bitlen_le {v i : Nat} (h : bitlen v ≤ i) : v.testBit i = false :=
  Nat.testBit_lt_two_pow ((lt_two_pow_bitlen v).trans_le (Nat.pow_le_pow_right two_pos h))

@[simp] theorem coeff_gf2Poly (v i : Nat) : (gf2Poly v).coeff i = if v.testBit i then 1 else 0 := by
  have hterm (j : Nat) : (if v.testBit j then (X : (ZMod 2)[X]) ^ j else 0).coeff i =
      if i = j then (if v.testBit i then 1 else 0) else 0 := by
    by_cases hij : i = j
    · cases hb : v.testBit j <;> simp [hij, hb]
    · cases v.testBit j <;> simp [hij, coeff_X_pow]
  rw [gf2Poly, finsetSum_coeff]
  simp only [hterm, Finset.sum_ite_eq, Finset.mem_range]
  by_cases hi : i < bitlen v
  · rw [if_pos hi]
  · simp [hi, testBit_of_bitlen_le (Nat.not_lt.1 hi)]

theorem gf2Poly_injective : Function.Injective gf2Poly := by
  intro v w h
  refine Nat.eq_of_testBit_eq fun i => ?_
  have hi : (gf2Poly v).coeff i = (gf2Poly w).coeff i := by rw [h]
  cases hv : v.testBit i <;> cases hw : w.testBit i <;> simp [hv, hw] at hi ⊢

@[simp] theorem gf2Poly_zero : gf2Poly 0 = 0 := by ext i; simp

theorem gf2Poly_eq_zero_iff {v : Nat} : gf2Poly v = 0 ↔ v = 0 :=
  ⟨fun h => gf2Poly_injective (h.trans gf2Poly_zero.symm), fun h => h ▸ gf2Poly_zero⟩

@[simp] theorem gf2Poly_two_pow (k : Nat) : gf2Poly (2 ^ k) = X ^ k := by
  ext i
  simp [coeff_X_pow, Nat.testBit_two_pow, eq_comm]

/-- R104: addition and subtraction are both `xor`. -/
theorem gf2Poly_xor (v w : Nat) : gf2Poly (v ^^^ w) = gf2Poly v + gf2Poly w := by
  ext i
  rw [coeff_add, coeff_gf2Poly, coeff_gf2Poly, coeff_gf2Poly, Nat.testBit_xor]
  cases v.testBit i <;> cases w.testBit i <;> decide

theorem gf2Poly_shiftIn (D i R : Nat) : gf2Poly (shiftIn D i R) = gf2Poly R * X + gf2Poly (D.testBit i).toNat := by
  have hshift : gf2Poly (R <<< 1) = gf2Poly R * X := by
    ext j
    cases j <;> simp [Nat.testBit_shiftLeft]
  rw [shiftIn, gf2Poly_xor, hshift]

theorem gf2Poly_eq_shiftRight (D : Nat) : gf2Poly D = gf2Poly (D >>> 1) * X + gf2Poly (D.testBit 0).toNat := by
  rw [← gf2Poly_shiftIn, shiftIn_zero_shiftRight]

theorem degree_gf2Poly_lt {v n : Nat} (h : v < 2 ^ n) : (gf2Poly v).degree < (n : WithBot ℕ) := by
  refine (degree_lt_iff_coeff_zero _ _).2 fun i hi => ?_
  simp [testBit_of_bitlen_le ((bitlen_le_of_lt h).trans hi)]

/-! A generator of degree r stands for a monic polynomial of degree r. -/

section Generator

variable {G r : Nat} (hG : ValidGenerator G r)
include hG

theorem ValidGenerator.two_pow_le : 2 ^ r ≤ G := by
  obtain ⟨-, -, hlo, -⟩ := hG
  exact hlo

theorem ValidGenerator.lt_two_pow : G < 2 ^ (r + 1) := by
  obtain ⟨-, -, -, hhi⟩ := hG
  exact hhi

theorem coeff_generator_degree : (gf2Poly G).coeff r = 1 := by
  simp [testBit_degree hG.two_pow_le hG.lt_two_pow]

theorem degree_generator : (gf2Poly G).degree = r := by
  have hle : (gf2Poly G).degree ≤ r := Order.le_of_lt_succ (by exact_mod_cast degree_gf2Poly_lt hG.lt_two_pow)
  refine degree_eq_of_le_of_coeff_ne_zero hle ?_
  rw [coeff_generator_degree hG]
  exact one_ne_zero

theorem monic_generator : (gf2Poly G).Monic :=
  monic_of_degree_le r (degree_generator hG).le (coeff_generator_degree hG)

end Generator

/-! R103: the loop subtracts multiples of the generator. -/

theorem dvd_sub_gf2Poly_reduce (G r R : Nat) : gf2Poly G ∣ gf2Poly R - gf2Poly (reduce G r R) := by
  rw [reduce]
  split_ifs
  · simp [gf2Poly_xor]
  · simp

/-- R103: each conditional XOR subtracts a multiple of G(x) from the dividend. -/
theorem dvd_sub_gf2Poly_pmod {D n : Nat} (G r : Nat) (hD : D < 2 ^ n) :
    gf2Poly G ∣ gf2Poly D - gf2Poly (pmod D n G r) := by
  induction n generalizing D with
  | zero =>
    obtain rfl : D = 0 := by omega
    simp
  | succ n ih =>
    set R := pmod (D >>> 1) n G r
    have hrest : gf2Poly G ∣ (gf2Poly (D >>> 1) - gf2Poly R) * X :=
      (ih (shiftRight_one_lt_two_pow hD)).mul_right X
    have hlast := dvd_sub_gf2Poly_reduce G r (shiftIn D 0 R)
    have hsplit : gf2Poly D - gf2Poly (reduce G r (shiftIn D 0 R)) =
        (gf2Poly (D >>> 1) - gf2Poly R) * X + (gf2Poly (shiftIn D 0 R) - gf2Poly (reduce G r (shiftIn D 0 R))) := by
      rw [gf2Poly_eq_shiftRight D, gf2Poly_shiftIn]
      ring
    rw [pmod_succ, hsplit]
    exact dvd_add hrest hlast

/-- R103: what differs from D(x) by a multiple of G(x) and has a degree below r is the remainder. -/
theorem modByMonic_eq_of_dvd_sub {P R : (ZMod 2)[X]} {G r : Nat} (hG : ValidGenerator G r)
    (hdvd : gf2Poly G ∣ P - R) (hdeg : R.degree < (r : WithBot ℕ)) : P %ₘ gf2Poly G = R := by
  obtain ⟨Q, hQ⟩ := hdvd
  refine (div_modByMonic_unique Q R (monic_generator hG) ⟨?_, ?_⟩).2
  · rw [← hQ, add_sub_cancel]
  · rwa [degree_generator hG]

/-- R103: the divider's result is the remainder of the polynomial division. -/
theorem gf2Poly_pmod {D n G r : Nat} (hD : D < 2 ^ n) (hG : ValidGenerator G r) :
    gf2Poly (pmod D n G r) = gf2Poly D %ₘ gf2Poly G := by
  have hdeg := degree_gf2Poly_lt (pmod_lt hG.two_pow_le hG.lt_two_pow D n)
  exact (modByMonic_eq_of_dvd_sub hG (dvd_sub_gf2Poly_pmod G r hD) hdeg).symm

theorem pmod_eq_zero_iff_dvd {D n G r : Nat} (hD : D < 2 ^ n) (hG : ValidGenerator G r) :
    pmod D n G r = 0 ↔ gf2Poly G ∣ gf2Poly D := by
  rw [← gf2Poly_eq_zero_iff, gf2Poly_pmod hD hG, modByMonic_eq_zero_iff_dvd (monic_generator hG)]

/-- Settles O21: the remainder is `%ₘ` by a monic polynomial, whose laws are the library's. -/
theorem remainderIsThePolynomialRemainder : Obligations.RemainderIsThePolynomialRemainder := by
  intro D n G r hD hG
  refine ⟨?_, ⟨gf2Poly D /ₘ gf2Poly G, ?_⟩, fun Q R hdeg hQ => ?_, pmod_eq_zero_iff_dvd hD hG⟩
  · rw [gf2Poly_pmod hD hG, ← degree_generator hG]
    exact degree_modByMonic_lt _ (monic_generator hG)
  · rw [gf2Poly_pmod hD hG, mul_comm, add_comm, modByMonic_add_div]
  · rw [gf2Poly_pmod hD hG]
    exact (modByMonic_eq_of_dvd_sub hG ⟨Q, by rw [hQ]; ring⟩ hdeg).symm

/-! R108: single-bit errors. -/

/-- R108: the only divisors of x^i over GF(2) are the monomials x^k with k ≤ i, by unique factorisation. -/
theorem gf2Poly_dvd_X_pow_iff {G r : Nat} (hG : ValidGenerator G r) (i : Nat) :
    gf2Poly G ∣ X ^ i ↔ G = 2 ^ r ∧ r ≤ i := by
  constructor
  · intro hdvd
    obtain ⟨k, hk, hassoc⟩ := (dvd_prime_pow prime_X i).1 hdvd
    have hX : gf2Poly G = X ^ k := eq_of_monic_of_associated (monic_generator hG) (monic_X_pow k) hassoc
    have hrk : r = k := by
      have hdeg := degree_generator hG
      rw [hX, degree_X_pow] at hdeg
      exact_mod_cast hdeg.symm
    subst hrk
    exact ⟨gf2Poly_injective (hX.trans (gf2Poly_two_pow r).symm), hk⟩
  · rintro ⟨rfl, hri⟩
    rw [gf2Poly_two_pow]
    exact pow_dvd_pow X hri

theorem pmod_two_pow_eq_zero_iff {G r n i : Nat} (hG : ValidGenerator G r) (hi : i < n) :
    pmod (2 ^ i) n G r = 0 ↔ G = 2 ^ r ∧ r ≤ i := by
  rw [pmod_eq_zero_iff_dvd (Nat.pow_lt_pow_right one_lt_two hi) hG, gf2Poly_two_pow, gf2Poly_dvd_X_pow_iff hG]

/-- Settles O22: a single-bit error goes undetected exactly when G(x) divides a power of x. -/
theorem singleBitRemainders : Obligations.SingleBitRemainders := by
  intro G r n i hG hi
  simp only [ne_eq, pmod_two_pow_eq_zero_iff hG hi]
  exact ⟨fun hne ⟨heq, _⟩ => hne heq, fun heq => and_iff_right heq⟩

end Sys2Proof.Machine

/-! ENCODE (42_encoder.md): the frame as a concatenation and its division (R124, R125, R128), the issue (R121, R122), the
completion of an admissible job (R124, R127), and VERIFY of the frame it wrote (R128). -/

namespace Sys2Proof.Machine

/-! The frame value: payload and checksum are its two segments, and it divides exactly. -/

theorem concatPair_lt {a na b nb : Nat} (ha : a < 2 ^ na) (hb : b < 2 ^ nb) :
    (concatPair (a, na) (b, nb)).1 < 2 ^ (na + nb) :=
  Nat.xor_lt_two_pow (Nat.shiftLeft_lt ha) (hb.trans_le (Nat.pow_le_pow_right two_pos (Nat.le_add_left ..)))

/-- R125: the frame pair is the concatenation of payload and checksum. -/
theorem concatPair_checksum (P n G r : Nat) :
    concatPair (P, n) (checksum P n G r, r) = (frame P n G r, n + r) := rfl

@[simp] theorem checksum_zero (n G r : Nat) : checksum 0 n G r = 0 := by
  rw [checksum, Nat.zero_shiftLeft, pmod_zero_left]

section Frame

variable {P n G r : Nat} (hG : ValidGenerator G r)
include hG

theorem checksum_lt (P n : Nat) : checksum P n G r < 2 ^ r := pmod_lt hG.two_pow_le hG.lt_two_pow _ _

theorem frame_lt (hP : P < 2 ^ n) : frame P n G r < 2 ^ (n + r) := concatPair_lt hP (checksum_lt hG P n)

theorem checksumSegment_frame (P n : Nat) : checksumSegment (frame P n G r) r = checksum P n G r := by
  rw [checksumSegment, frame, Nat.xor_mod_two_pow, Nat.mod_eq_of_lt (checksum_lt hG P n), Nat.shiftLeft_eq,
    Nat.mul_mod_left, Nat.zero_xor]

theorem payloadSegment_frame (P n : Nat) : payloadSegment (frame P n G r) r = P := by
  rw [payloadSegment, frame, Nat.shiftRight_xor_distrib, Nat.shiftLeft_shiftRight,
    Nat.shiftRight_eq_zero _ _ (checksum_lt hG P n), Nat.xor_zero]

/-- R128: the checksum, shorter than the generator, is its own remainder, and so cancels that of the augmented payload. -/
theorem pmod_frame (P n : Nat) : pmod (frame P n G r) (n + r) G r = 0 := by
  have hc := checksum_lt hG P n
  have hself : pmod (checksum P n G r) (n + r) G r = checksum P n G r := by
    rw [Nat.add_comm, pmod_add_len n G r hc, pmod_of_len_le G le_rfl hc]
  rw [frame, pmod_xor, hself]
  exact Nat.xor_self _

end Frame

/-! The result pair (R31) under the updates of a completion, and the operand (R30) as a number. -/

theorem outPair_toNat_writeResults {out : Nat} (h : out < 2 ^ 64) (len chk rem : Nat) (s : State) :
    (outPair (writeResults out len chk rem s)).toNat = out := by
  rw [outPair_toNat, writeResults_outHi, writeResults_outLo, hiWord_toNat h, loWord_toNat, Nat.div_add_mod']

@[simp] theorem outPair_endJob (s : State) : outPair (endJob s) = outPair s := rfl

@[simp] theorem outPair_setVerdict (m : Nat) (s : State) : outPair (setVerdict m s) = outPair s := by simp [outPair]

theorem operand_toNat_eq_dataNat (s : State) (n : Nat) : (operand s n).toNat = dataNat s % 2 ^ n := by
  rw [operand_toNat, dataPair_toNat, dataNat]

/-! The issue of ENCODE and VERIFY with no job in flight. -/

/-- R121: an ENCODE of a legal length without a generator. -/
theorem exec_encode_noCode {n : Nat} {s : State} (hj : s.job = none) (h1 : 1 ≤ n) (h32 : n ≤ 32)
    (hc : s.status.codeValid = false) : exec (.encode n) s = .next (raiseCmdError .noCode (issueClear s)) := by
  rw [exec, execEncode, issue_idle hj]
  rcases encodeCommand_cases n (issueClear s) with ⟨hn, -⟩ | ⟨-, -, -, e⟩ | ⟨-, -, hv, -⟩
  · omega
  · exact congrArg _ e
  · exact absurd (hc.symm.trans hv) Bool.false_ne_true

/-- R122: an ENCODE that passes the two checks of R121. -/
theorem exec_encode_starts {n : Nat} {s : State} (hj : s.job = none) (h1 : 1 ≤ n) (h32 : n ≤ 32)
    (hc : s.status.codeValid = true) : exec (.encode n) s = .next (startJob .enc n (issueClear s)) := by
  rw [exec, execEncode, issue_idle hj]
  rcases encodeCommand_cases n (issueClear s) with ⟨hn, -⟩ | ⟨-, -, hv, -⟩ | ⟨-, -, -, e⟩
  · omega
  · exact absurd (hv.symm.trans hc) Bool.false_ne_true
  · exact congrArg _ e

/-- R144: a VERIFY that passes the three checks of R141 to R143. -/
theorem exec_verify_starts {n : Nat} {s : State} (hj : s.job = none) (h64 : n ≤ 64) (hc : s.status.codeValid = true)
    (hr : s.genDeg.toNat ≤ n) : exec (.verify n) s = .next (startJob .ver n (issueClear s)) := by
  rw [exec, execVerify, issue_idle hj]
  rcases verifyCommand_cases n (issueClear s) with ⟨hn, -⟩ | ⟨-, hv, -⟩ | ⟨-, -, hn, -⟩ | ⟨-, -, -, e⟩
  · omega
  · exact absurd (hv.symm.trans hc) Bool.false_ne_true
  · exact absurd hn (Nat.not_lt.2 hr)
  · exact congrArg _ e

/-- Settles O12: the two refused cases of ENCODE, where raising an error writes ERR only. -/
theorem encodeRefusals : Obligations.EncodeRefusals := fun _ s hj =>
  ⟨fun hn => (exec_encode_lenInvalid hn hj).trans (congrArg _ (raiseCmdError_issueClear _ s)),
    fun h1 h32 hc => (exec_encode_noCode hj h1 h32 hc).trans (congrArg _ (raiseCmdError_issueClear _ s))⟩

/-- R35, R100: a configured generator is in the divider's range. -/
theorem GeneratorInv.validGenerator {s : State} (hs : GeneratorInv s) (hc : s.status.codeValid = true) :
    ValidGenerator s.gen.toNat s.genDeg.toNat := by
  obtain ⟨hvalid, -⟩ := hs
  obtain ⟨h2, hdeg, -, -⟩ := hvalid hc
  rw [hdeg]
  exact validGenerator_bitlen_pred h2

/-! The completion of an admissible ENCODE job. -/

section Completion

variable {j : Job} (hop : j.op = .enc) (hadm : j.admissible)
include hop hadm

/-- R124: the frame has 2 to 63 bits. -/
theorem encFrame_len_mem_range : 2 ≤ j.n + j.r.toNat ∧ j.n + j.r.toNat ≤ 63 := by
  obtain ⟨⟨h1, h31, -, -⟩, -, henc, -⟩ := hadm
  obtain ⟨hn1, hn32⟩ := henc hop
  omega

theorem encFrame_lt : frame j.d.toNat j.n j.g.toNat j.r.toNat < 2 ^ 63 := by
  obtain ⟨-, h63⟩ := encFrame_len_mem_range hop hadm
  obtain ⟨hG, hd, -, -⟩ := hadm
  exact (frame_lt hG hd).trans_le (Nat.pow_le_pow_right two_pos h63)

variable {s : State} (hj : s.job = some j)
include hj

theorem engineStep_enc_outLen_toNat : (engineStep s).outLen.toNat = j.n + j.r.toNat := by
  obtain ⟨-, h63⟩ := encFrame_len_mem_range hop hadm
  rw [engineStep_enc hj hop, completeEncode, endJob_outLen, writeResults_outLen, BitVec.toNat_ofNat]
  exact Nat.mod_eq_of_lt (by omega)

theorem engineStep_enc_chk_toNat : (engineStep s).chk.toNat = checksum j.d.toNat j.n j.g.toNat j.r.toNat := by
  obtain ⟨hG, -, -, -⟩ := hadm
  have hr : j.r.toNat ≤ 32 := by omega
  rw [engineStep_enc hj hop, completeEncode, endJob_chk, writeResults_chk, BitVec.toNat_ofNat]
  exact Nat.mod_eq_of_lt ((checksum_lt hG _ _).trans_le (Nat.pow_le_pow_right two_pos hr))

theorem engineStep_enc_outPair_toNat :
    (outPair (engineStep s)).toNat = frame j.d.toNat j.n j.g.toNat j.r.toNat := by
  rw [engineStep_enc hj hop, completeEncode, outPair_endJob,
    outPair_toNat_writeResults ((encFrame_lt hop hadm).trans (by decide))]

end Completion

/-- Settles O23: the ranges of checksum, frame and length, and the registers of the completed state one by one. -/
theorem encodeCompletion : Obligations.EncodeCompletion := by
  intro s j hj hop hadm
  have hF := encFrame_lt hop hadm
  have hchk := engineStep_enc_chk_toNat hop hadm hj
  have hlen := engineStep_enc_outLen_toNat hop hadm hj
  have hstep : engineStep s = completeEncode j s := engineStep_enc hj hop
  obtain ⟨h2, h63⟩ := encFrame_len_mem_range hop hadm
  obtain ⟨hG, -, -, -⟩ := hadm
  refine ⟨checksum_lt hG _ _, hF, h2, h63, hchk, ?_, ?_, ?_, hlen, engineStep_job s, ?_, engineStep_genIn s,
    engineStep_gen s, engineStep_genDeg s, engineStep_dataLo s, engineStep_dataHi s⟩
  · have hrem : (engineStep s).rem = (engineStep s).chk := by rw [hstep]; rfl
    exact hrem ▸ hchk
  · rw [hstep]; exact loWord_toNat _
  · rw [hstep]; exact hiWord_toNat (hF.trans (by decide))
  · rw [hstep]; rfl

/-- Settles O24: the result pair is the frame, whose string is that of a concatenation. -/
theorem frameIsPayloadThenChecksum : Obligations.FrameIsPayloadThenChecksum := by
  intro s j hj hop hadm
  have hpair := engineStep_enc_outPair_toNat hop hadm hj
  have hlen := engineStep_enc_outLen_toNat hop hadm hj
  have hchk := engineStep_enc_chk_toNat hop hadm hj
  obtain ⟨hG, -, -, -⟩ := hadm
  have hc := checksum_lt hG j.d.toNat j.n
  refine ⟨?_, ?_, length_bits _ _, ?_, fun hd => ?_⟩
  · rw [concatPair_checksum, ← outPair_toNat, hpair, hlen]
  · rw [outString, hpair, hlen, hchk]
    exact bits_concatPair _ _ hc
  · rw [hchk, val_bits_of_lt hc]
  · have hzero : (engineStep s).chk.toNat = 0 := by simp [hchk, hd]
    exact BitVec.eq_of_toNat_eq hzero

/-! VERIFY of the frame an ENCODE wrote. -/

/-- R128, R146, R147: the completion of a VERIFY whose frame is one ENCODE builds: no remainder, and the segments back. -/
theorem completeVerify_frame {j : Job} {P n : Nat} (hG : ValidGenerator j.g.toNat j.r.toNat)
    (hn : j.n = n + j.r.toNat) (hd : j.d.toNat = frame P n j.g.toNat j.r.toNat) (s : State) :
    completeVerify j s = endJob (setVerdict 0 (writeResults P n (checksum P n j.g.toNat j.r.toNat) 0 s)) := by
  rw [completeVerify, hn, hd, pmod_frame hG, payloadSegment_frame hG, checksumSegment_frame hG, Nat.add_sub_cancel]

/-- R128: VERIFY on an idle block whose operand is a frame ENCODE builds starts a job, which finds no remainder. -/
theorem exec_verify_frame {P n : Nat} {g : Word} {r : BitVec 5} {u : State} (hj : u.job = none)
    (hc : u.status.codeValid = true) (hg : u.gen = g) (hr : u.genDeg = r) (hG : ValidGenerator g.toNat r.toNat)
    (hP : P < 2 ^ n) (h32 : n ≤ 32) (hd : (dataPair u).toNat = frame P n g.toNat r.toNat) :
    ∃ v, exec (.verify (n + r.toNat)) u = .next v ∧ v.job ≠ none ∧ v.status.err = .noError ∧
      engineStep v = endJob (setVerdict 0 (writeResults P n (checksum P n g.toNat r.toNat) 0 v)) := by
  subst hg hr
  have h64 : n + u.genDeg.toNat ≤ 64 := by omega
  have hop : (operand u (n + u.genDeg.toNat)).toNat = frame P n u.gen.toNat u.genDeg.toNat := by
    rw [operand_toNat, hd]
    exact Nat.mod_eq_of_lt (frame_lt hG hP)
  refine ⟨_, exec_verify_starts hj h64 hc (Nat.le_add_left ..), by simp, rfl, ?_⟩
  rw [engineStep_ver (startJob_job ..) rfl]
  exact completeVerify_frame hG rfl hop _

/-- R122, R124: ENCODE on an idle configured block starts a job, whose completion writes the frame of DATA[n-1:0]. -/
theorem exec_encode_frame {n : Nat} {s : State} (hj : s.job = none) (hc : s.status.codeValid = true)
    (hG : ValidGenerator s.gen.toNat s.genDeg.toNat) (h1 : 1 ≤ n) (h32 : n ≤ 32) :
    ∃ t, exec (.encode n) s = .next t ∧ t.status.codeValid = true ∧ t.gen = s.gen ∧ t.genDeg = s.genDeg ∧
      (outPair (engineStep t)).toNat = frame (operand s n).toNat n s.gen.toNat s.genDeg.toNat ∧
      (engineStep t).outLen.toNat = n + s.genDeg.toNat ∧
      (engineStep t).chk = BitVec.ofNat 32 (checksum (operand s n).toNat n s.gen.toNat s.genDeg.toNat) := by
  have htj := startJob_job (issueClear s) .enc n
  have hadm : Job.admissible { op := .enc, n := n, d := operand s n, g := s.gen, r := s.genDeg } :=
    ⟨hG, operand_lt s n, fun _ => ⟨h1, h32⟩, nofun⟩
  refine ⟨_, exec_encode_starts hj h1 h32 hc, hc, rfl, rfl, engineStep_enc_outPair_toNat rfl hadm htj,
    engineStep_enc_outLen_toNat rfl hadm htj, ?_⟩
  rw [engineStep_enc htj rfl]
  rfl

/-- Settles O26: ENCODE completes with the frame and its length, VERIFY takes that pair as its operand, and its completion
gives the segments back. -/
theorem encodeVerifyRoundTrip : Obligations.EncodeVerifyRoundTrip := by
  intro n s hidle hc hinv h1 h32
  have hG := hinv.validGenerator hc
  obtain ⟨t, ht, htc, htg, htr, hpair, hlen, hchk⟩ := exec_encode_frame hidle hc hG h1 h32
  obtain ⟨v, hv, hvj, herr, hstep⟩ := exec_verify_frame
    (u := { engineStep t with dataLo := (engineStep t).outLo, dataHi := (engineStep t).outHi })
    (engineStep_job t) ((engineStep_status_codeValid t).trans htc) ((engineStep_gen t).trans htg)
    ((engineStep_genDeg t).trans htr) hG (operand_lt s n) h32 hpair
  have hdvd : pmod (outPair (engineStep t)).toNat (n + s.genDeg.toNat) s.gen.toNat s.genDeg.toNat = 0 := by
    rw [hpair]
    exact pmod_frame hG _ _
  have hn : (BitVec.ofNat 7 n).toNat = n := Nat.mod_eq_of_lt (by omega)
  refine ⟨t, ht, hdvd, v, by rw [hlen]; exact hv, hvj, engineStep_job v, ?_⟩
  rw [hstep, hchk, ← operand_toNat_eq_dataNat]
  refine ⟨rfl, rfl, herr, rfl, rfl, hn, ?_⟩
  rw [outPair_endJob, outPair_setVerdict, outPair_toNat_writeResults (operand s n).isLt]

end Sys2Proof.Machine

/-! VERIFY (43_verifier.md): the refusals (R141 to R143), the completion of a job field by field (R146, R147), the frame's
remainder in terms of its segments (R148, R150), and what the outcome depends on (R151). -/

namespace Sys2Proof.Machine

/-! The refusals of VERIFY with no job in flight, after the length check. -/

/-- R142: a VERIFY of a legal length without a generator. -/
theorem exec_verify_noCode {n : Nat} {s : State} (hj : s.job = none) (h64 : n ≤ 64)
    (hc : s.status.codeValid = false) :
    exec (.verify n) s = .next (raiseCmdError .noCode (setResult .codeError (issueClear s))) := by
  rw [exec, execVerify, issue_idle hj]
  rcases verifyCommand_cases n (issueClear s) with ⟨hn, -⟩ | ⟨-, -, e⟩ | ⟨-, hv, -, -⟩ | ⟨-, hv, -, -⟩
  · omega
  · exact congrArg _ e
  · exact absurd (hc.symm.trans hv) Bool.false_ne_true
  · exact absurd (hc.symm.trans hv) Bool.false_ne_true

/-- R143: a VERIFY of fewer bits than the generator's degree. -/
theorem exec_verify_shortFrame {n : Nat} {s : State} (hj : s.job = none) (h64 : n ≤ 64)
    (hc : s.status.codeValid = true) (hr : n < s.genDeg.toNat) :
    exec (.verify n) s = .next (raiseCmdError .malformedFrame (setResult .dataError (issueClear s))) := by
  rw [exec, execVerify, issue_idle hj]
  rcases verifyCommand_cases n (issueClear s) with ⟨hn, -⟩ | ⟨-, hv, -⟩ | ⟨-, -, -, e⟩ | ⟨-, -, hn, -⟩
  · omega
  · exact absurd (hv.symm.trans hc) Bool.false_ne_true
  · exact congrArg _ e
  · exact absurd hr (Nat.not_lt.2 hn)

/-- R161, R163: a RESULT written and a command error raised after the issue-time clearing. -/
theorem raiseCmdError_setResult_issueClear (e : ErrCode) (c : ResultCode) (s : State) :
    raiseCmdError e (setResult c (issueClear s)) = { s with status := statusAfterIssue s.status c e } := rfl

/-- Settles O14: the three refused cases of VERIFY, of which each writes RESULT and ERR only. -/
theorem verifyRefusals : Obligations.VerifyRefusals := fun _ s hj =>
  ⟨fun hn => (exec_verify_lenInvalid hn hj).trans (congrArg _ (raiseCmdError_issueClear _ s)),
    fun h64 hc => (exec_verify_noCode hj h64 hc).trans (congrArg _ (raiseCmdError_setResult_issueClear _ _ s)),
    fun h64 hc hr => (exec_verify_shortFrame hj h64 hc hr).trans
      (congrArg _ (raiseCmdError_setResult_issueClear _ _ s))⟩

/-! The completion of a VERIFY job, field by field (R146, R147). -/

/-- R145: the remainder of a job's bit string (D, n) itself. For a VERIFY that is its whole frame. -/
def Job.remainder (j : Job) : Nat := pmod j.d.toNat j.n j.g.toNat j.r.toNat

@[simp] theorem completeVerify_rem (j : Job) (s : State) : (completeVerify j s).rem = BitVec.ofNat 32 j.remainder := by
  simp [completeVerify, Job.remainder]

@[simp] theorem completeVerify_chk (j : Job) (s : State) :
    (completeVerify j s).chk = BitVec.ofNat 32 (checksumSegment j.d.toNat j.r.toNat) := by
  simp [completeVerify]

@[simp] theorem completeVerify_outLo (j : Job) (s : State) :
    (completeVerify j s).outLo = loWord (payloadSegment j.d.toNat j.r.toNat) := by
  simp [completeVerify]

@[simp] theorem completeVerify_outHi (j : Job) (s : State) :
    (completeVerify j s).outHi = hiWord (payloadSegment j.d.toNat j.r.toNat) := by
  simp [completeVerify]

@[simp] theorem completeVerify_outLen (j : Job) (s : State) :
    (completeVerify j s).outLen = BitVec.ofNat 7 (j.n - j.r.toNat) := by
  simp [completeVerify]

/-- R146: the verdict, and the rest of STATUS as it was. -/
theorem completeVerify_status (j : Job) (s : State) : (completeVerify j s).status =
    if j.remainder = 0 then { s.status with ok := true, result := .dataSuccess }
    else { s.status with ok := false, result := .dataError } := by
  have hverdict (u : State) : (setVerdict j.remainder u).status =
      if j.remainder = 0 then { u.status with ok := true, result := .dataSuccess }
      else { u.status with ok := false, result := .dataError } := apply_ite State.status ..
  exact hverdict _

/-- R33, R34: CHK and REM hold every value of a degree's width. -/
theorem toNat_ofNat_of_lt_degree {v : Nat} {r : BitVec 5} (h : v < 2 ^ r.toNat) : (BitVec.ofNat 32 v).toNat = v := by
  have hr : r.toNat ≤ 32 := by omega
  rw [BitVec.toNat_ofNat]
  exact Nat.mod_eq_of_lt (h.trans_le (Nat.pow_le_pow_right two_pos hr))

theorem checksumSegment_lt (F r : Nat) : checksumSegment F r < 2 ^ r := Nat.mod_lt _ (Nat.two_pow_pos r)

theorem remainder_lt {j : Job} (hadm : j.admissible) : j.remainder < 2 ^ j.r.toNat := by
  obtain ⟨hG, -, -, -⟩ := hadm
  exact pmod_lt hG.two_pow_le hG.lt_two_pow _ _

/-- R143, R144: the frame of a VERIFY job has at least r bits, so that its payload segment has at most 63. -/
theorem verFrame_len_mem_range {j : Job} (hop : j.op = .ver) (hadm : j.admissible) :
    j.r.toNat ≤ j.n ∧ j.n - j.r.toNat ≤ 63 := by
  obtain ⟨⟨h1, -, -, -⟩, -, -, hver⟩ := hadm
  obtain ⟨hr, h64⟩ := hver hop
  omega

theorem payloadSegment_lt {j : Job} (hop : j.op = .ver) (hadm : j.admissible) :
    payloadSegment j.d.toNat j.r.toNat < 2 ^ 63 := by
  obtain ⟨hr, h63⟩ := verFrame_len_mem_range hop hadm
  obtain ⟨-, hd, -, -⟩ := hadm
  have hlt : payloadSegment j.d.toNat j.r.toNat < 2 ^ (j.n - j.r.toNat) := by
    rw [payloadSegment, Nat.shiftRight_eq_div_pow]
    refine Nat.div_lt_of_lt_mul ?_
    rwa [← pow_add, Nat.add_sub_cancel' hr]
  exact hlt.trans_le (Nat.pow_le_pow_right two_pos h63)

section VerifyJob

variable {s : State} {j : Job} (hj : s.job = some j) (hop : j.op = .ver)
include hj hop

theorem engineStep_ver_status_of_remainder_eq_zero (hm : j.remainder = 0) :
    (engineStep s).status = { s.status with ok := true, result := .dataSuccess } := by
  rw [engineStep_ver hj hop, completeVerify_status, if_pos hm]

theorem engineStep_ver_status_of_remainder_ne_zero (hm : j.remainder ≠ 0) :
    (engineStep s).status = { s.status with ok := false, result := .dataError } := by
  rw [engineStep_ver hj hop, completeVerify_status, if_neg hm]

/-- R146: DATA_SUCCESS is the verdict exactly on a zero remainder. -/
theorem engineStep_ver_result_eq_dataSuccess_iff :
    (engineStep s).status.result = .dataSuccess ↔ j.remainder = 0 := by
  by_cases hm : j.remainder = 0
  · simp [engineStep_ver_status_of_remainder_eq_zero hj hop hm, hm]
  · simp [engineStep_ver_status_of_remainder_ne_zero hj hop hm, hm]

theorem engineStep_ver_chk_toNat : (engineStep s).chk.toNat = checksumSegment j.d.toNat j.r.toNat := by
  rw [engineStep_ver hj hop, completeVerify_chk, toNat_ofNat_of_lt_degree (checksumSegment_lt _ _)]

variable (hadm : j.admissible)
include hadm

theorem engineStep_ver_rem_toNat : (engineStep s).rem.toNat = j.remainder := by
  rw [engineStep_ver hj hop, completeVerify_rem, toNat_ofNat_of_lt_degree (remainder_lt hadm)]

theorem engineStep_ver_outLen_toNat : (engineStep s).outLen.toNat = j.n - j.r.toNat := by
  obtain ⟨-, h63⟩ := verFrame_len_mem_range hop hadm
  rw [engineStep_ver hj hop, completeVerify_outLen, BitVec.toNat_ofNat]
  exact Nat.mod_eq_of_lt (by omega)

end VerifyJob

/-- Settles O27: the ranges of the remainder and the segments, the verdict, and the registers of the completed state. -/
theorem verifyCompletion : Obligations.VerifyCompletion := by
  intro s j hj hop hadm
  have hP := payloadSegment_lt hop hadm
  have hstep := engineStep_ver hj hop
  obtain ⟨-, h63⟩ := verFrame_len_mem_range hop hadm
  refine ⟨remainder_lt hadm, hP, h63, engineStep_ver_rem_toNat hj hop hadm,
    engineStep_ver_status_of_remainder_eq_zero hj hop, engineStep_ver_status_of_remainder_ne_zero hj hop,
    engineStep_ver_chk_toNat hj hop, ?_, ?_, engineStep_ver_outLen_toNat hj hop hadm, engineStep_job s,
    engineStep_genIn s, engineStep_gen s, engineStep_genDeg s, engineStep_dataLo s, engineStep_dataHi s⟩
  · rw [hstep, completeVerify_outLo]; exact loWord_toNat _
  · rw [hstep, completeVerify_outHi]; exact hiWord_toNat (hP.trans (by decide))

/-! The remainder of a frame in terms of its segments. -/

/-- R147: a frame is its payload segment followed by its checksum segment. -/
theorem payloadSegment_xor_checksumSegment (F r : Nat) :
    payloadSegment F r <<< r ^^^ checksumSegment F r = F := by
  refine Nat.eq_of_testBit_eq fun i => ?_
  rw [payloadSegment, checksumSegment, Nat.testBit_xor, Nat.testBit_shiftLeft, Nat.testBit_shiftRight,
    Nat.testBit_mod_two_pow]
  by_cases hi : i < r
  · simp [hi, Nat.not_le.2 hi]
  · simp [hi, Nat.add_sub_cancel' (Nat.not_lt.1 hi), Nat.not_lt.1 hi]

/-- R148: the checksum segment has at most r bits, so that it is its own remainder. -/
theorem pmod_eq_xor_checksumSegment {n r : Nat} (F G : Nat) (hr : r ≤ n) :
    pmod F n G r = pmod (payloadSegment F r <<< r) n G r ^^^ checksumSegment F r := by
  obtain ⟨k, rfl⟩ := Nat.exists_eq_add_of_le hr
  have hC := checksumSegment_lt F r
  have hself : pmod (checksumSegment F r) (r + k) G r = checksumSegment F r := by
    rw [pmod_add_len k G r hC, pmod_of_len_le G le_rfl hC]
  calc pmod F (r + k) G r
      = pmod (payloadSegment F r <<< r ^^^ checksumSegment F r) (r + k) G r := by
        rw [payloadSegment_xor_checksumSegment]
    _ = pmod (payloadSegment F r <<< r) (r + k) G r ^^^ checksumSegment F r := by rw [pmod_xor, hself]

/-- Settles O28: the augmented payload's remainder is the recomputed checksum, and a xor is 0 exactly on equal values. -/
theorem remainderComparesTheSegments : Obligations.RemainderComparesTheSegments := by
  intro s j hj hop hadm
  obtain ⟨hr, -⟩ := verFrame_len_mem_range hop hadm
  have hxor := pmod_eq_xor_checksumSegment j.d.toNat j.g.toNat hr
  refine ⟨hxor, ?_⟩
  rw [engineStep_ver_result_eq_dataSuccess_iff hj hop, Job.remainder, hxor, checksum, Nat.sub_add_cancel hr,
    Nat.xor_eq_zero_iff]
  exact eq_comm

/-- R107, R150: an encoded frame with an error pattern has the pattern's remainder. -/
theorem pmod_frame_xor {G r : Nat} (hG : ValidGenerator G r) (P n E : Nat) :
    pmod (frame P n G r ^^^ E) (n + r) G r = pmod E (n + r) G r := by
  rw [pmod_xor, pmod_frame hG, Nat.zero_xor]

/-- Settles O30: the flipped frame has the remainder of the flipped bit, which R108 decides. -/
theorem singleBitFlipVerdict : Obligations.SingleBitFlipVerdict := by
  intro s j P n i hj hop hadm _ _ _ hi hn hd
  have hrem := engineStep_ver_rem_toNat hj hop hadm
  obtain ⟨hG, -, -, -⟩ := hadm
  have hzero : j.remainder = 0 ↔ j.g.toNat = 2 ^ j.r.toNat ∧ j.r.toNat ≤ i := by
    rw [Job.remainder, hd, hn, pmod_frame_xor hG, pmod_two_pow_eq_zero_iff hG hi]
  refine ⟨fun hne => ?_, fun heq hri => (engineStep_ver_result_eq_dataSuccess_iff hj hop).2 (hzero.2 ⟨heq, hri⟩)⟩
  have hm : j.remainder ≠ 0 := fun hm => hne (hzero.1 hm).1
  have hstatus := engineStep_ver_status_of_remainder_ne_zero hj hop hm
  refine ⟨by rw [hstatus], by rw [hstatus], fun h0 => hm ?_⟩
  rw [← hrem, h0]
  rfl

/-! The job a VERIFY starts (R144), and frames of exactly r bits (R149). -/

/-- R144: the job a VERIFY n that passes its checks starts in s. -/
def verifyJob (n : Nat) (s : State) : Job := { op := .ver, n := n, d := operand s n, g := s.gen, r := s.genDeg }

theorem startJob_ver_job (n : Nat) (s : State) : (startJob .ver n (issueClear s)).job = some (verifyJob n s) := rfl

/-- R35, R143, R144: on a configured block the job is admissible. -/
theorem GeneratorInv.verifyJob_admissible {s : State} {n : Nat} (hs : GeneratorInv s)
    (hc : s.status.codeValid = true) (hr : s.genDeg.toNat ≤ n) (h64 : n ≤ 64) : (verifyJob n s).admissible :=
  ⟨hs.validGenerator hc, operand_lt s n, nofun, fun _ => ⟨hr, h64⟩⟩

/-- R105: a frame of r bits is its own remainder. -/
theorem verifyJob_genDeg_remainder (s : State) :
    (verifyJob s.genDeg.toNat s).remainder = (operand s s.genDeg.toNat).toNat :=
  pmod_of_len_le _ le_rfl (operand_lt s _)

/-- Settles O29: a frame of r bits is its own remainder and its own checksum segment; a frame of 0 bits is shorter than
any degree. -/
theorem framesOfExactlyDegreeBits : Obligations.FramesOfExactlyDegreeBits := by
  intro s hidle hc hinv
  have h64 : s.genDeg.toNat ≤ 64 := by omega
  have hpos : 0 < s.genDeg.toNat := (hinv.validGenerator hc).1
  refine ⟨⟨_, exec_verify_starts hidle h64 hc le_rfl, by simp, ?_⟩,
    ⟨_, exec_verify_shortFrame hidle (Nat.zero_le _) hc hpos, hidle, rfl, rfl⟩⟩
  have htj := startJob_ver_job s.genDeg.toNat s
  have hadm := hinv.verifyJob_admissible hc le_rfl h64
  have hF := operand_lt s s.genDeg.toNat
  rw [← operand_toNat_eq_dataNat]
  refine ⟨?_, ?_, ?_, ?_, ?_⟩
  · exact BitVec.eq_of_toNat_eq ((engineStep_ver_outLen_toNat htj rfl hadm).trans (Nat.sub_self _))
  · have hP : payloadSegment (operand s s.genDeg.toNat).toNat s.genDeg.toNat = 0 := Nat.shiftRight_eq_zero _ _ hF
    rw [outPair, engineStep_ver htj rfl, completeVerify_outHi, completeVerify_outLo]
    exact congrArg (fun P => hiWord P ++ loWord P) hP
  · exact (engineStep_ver_chk_toNat htj rfl).trans (Nat.mod_eq_of_lt hF)
  · rw [engineStep_ver_rem_toNat htj rfl hadm, verifyJob_genDeg_remainder]
  · rw [engineStep_ver_result_eq_dataSuccess_iff htj rfl, verifyJob_genDeg_remainder]

/-! What the outcome of a VERIFY depends on (R151). -/

/-- R151: two states after the issue of a VERIFY have the same outcome: the same job or none, the same OK, RESULT and ERR
in the end, and for a job the same results. -/
def SameOutcome (t t' : State) : Prop :=
  t.job = t'.job ∧
    (engineStep t).status.ok = (engineStep t').status.ok ∧
    (engineStep t).status.result = (engineStep t').status.result ∧
    (engineStep t).status.err = (engineStep t').status.err ∧
    (t.job ≠ none →
      (engineStep t).chk = (engineStep t').chk ∧ (engineStep t).rem = (engineStep t').rem ∧
      (engineStep t).outLo = (engineStep t').outLo ∧ (engineStep t).outHi = (engineStep t').outHi ∧
      (engineStep t).outLen = (engineStep t').outLen)

/-- Two refused VERIFYs with the same verdict have the same outcome: the engine has nothing to do. -/
theorem sameOutcome_of_refused {t t' : State} (hj : t.job = none) (hj' : t'.job = none)
    (hok : t.status.ok = t'.status.ok) (hres : t.status.result = t'.status.result)
    (herr : t.status.err = t'.status.err) : SameOutcome t t' := by
  rw [SameOutcome, engineStep_none hj, engineStep_none hj']
  exact ⟨hj.trans hj'.symm, hok, hres, herr, fun h => absurd hj h⟩

/-- R41: the same VERIFY job has the same outcome, which its completion takes from the snapshot. -/
theorem sameOutcome_of_started {t t' : State} {j : Job} (hj : t.job = some j) (hj' : t'.job = some j)
    (hop : j.op = .ver) (herr : t.status.err = t'.status.err) : SameOutcome t t' := by
  have hstatus : (engineStep t).status.ok = (engineStep t').status.ok ∧
      (engineStep t).status.result = (engineStep t').status.result := by
    by_cases hm : j.remainder = 0
    · simp [engineStep_ver_status_of_remainder_eq_zero hj hop hm,
        engineStep_ver_status_of_remainder_eq_zero hj' hop hm]
    · simp [engineStep_ver_status_of_remainder_ne_zero hj hop hm,
        engineStep_ver_status_of_remainder_ne_zero hj' hop hm]
  obtain ⟨hok, hres⟩ := hstatus
  refine ⟨hj.trans hj'.symm, hok, hres, by simpa using herr, fun _ => ?_⟩
  simp [engineStep_ver hj hop, engineStep_ver hj' hop]

/-- R151: the job depends on the generator and on the low n bits of DATA only. -/
theorem verifyJob_congr {n : Nat} {s s' : State} (hgen : s.gen = s'.gen) (hdeg : s.genDeg = s'.genDeg)
    (hdata : dataNat s % 2 ^ n = dataNat s' % 2 ^ n) : verifyJob n s = verifyJob n s' := by
  have hoperand : operand s n = operand s' n :=
    BitVec.eq_of_toNat_eq (by rw [operand_toNat_eq_dataNat, operand_toNat_eq_dataNat, hdata])
  rw [verifyJob, hoperand, hgen, hdeg]
  rfl

/-- Settles O31: the three checks read the agreed inputs only, each refusal writes constants, and a job that starts is
the same in both states. -/
theorem verifyIsStateless : Obligations.VerifyIsStateless := by
  intro n s s' hj hj' hcode hgen hdeg hdata
  rcases Nat.lt_or_ge 64 n with hn | h64
  · exact ⟨_, _, exec_verify_lenInvalid hn hj, exec_verify_lenInvalid hn hj',
      sameOutcome_of_refused hj hj' rfl rfl rfl⟩
  cases hc : s.status.codeValid with
  | false =>
    exact ⟨_, _, exec_verify_noCode hj h64 hc, exec_verify_noCode hj' h64 (hcode.symm.trans hc),
      sameOutcome_of_refused hj hj' rfl rfl rfl⟩
  | true =>
    have hc' : s'.status.codeValid = true := hcode.symm.trans hc
    rcases Nat.lt_or_ge n s.genDeg.toNat with hr | hr
    · exact ⟨_, _, exec_verify_shortFrame hj h64 hc hr, exec_verify_shortFrame hj' h64 hc' (hdeg ▸ hr),
        sameOutcome_of_refused hj hj' rfl rfl rfl⟩
    · have hjob' : (startJob .ver n (issueClear s')).job = some (verifyJob n s) := by
        rw [startJob_ver_job, verifyJob_congr hgen hdeg hdata]
      exact ⟨_, _, exec_verify_starts hj h64 hc hr, exec_verify_starts hj' h64 hc' (hdeg ▸ hr),
        sameOutcome_of_started (startJob_ver_job n s) hjob' rfl rfl⟩

end Sys2Proof.Machine

/-! The one outcome of a CMD write (60_exceptions.md R165): BUSY before everything else, then the outcomes of the word's
command on an idle block. -/

namespace Sys2Proof.Machine

/-- R162: a CMD write while a job is in flight is ignored, whatever its word. -/
theorem commandWrite_busy {s : State} (hj : s.job ≠ none) (w : Word) : commandWrite w s = .next (setOvr s) := by
  obtain ⟨t, ht, ⟨-, rfl⟩ | ⟨h, -⟩ | ⟨h, -⟩ | ⟨h, -⟩ | ⟨h, -⟩⟩ := commandWrite_cases w s
  · exact ht
  all_goals exact absurd h hj

/-- R122, R124, R144, R147: a job that starts has STATUS as the issue-time clearing left it, and its completion raises
no error. -/
theorem commandWrite_starts {w : Word} {i : Instr} {s : State} {op : JobOp} {n : Nat} (hd : decode w = .ok i)
    (h : exec i s = .next (startJob op n (issueClear s))) :
    ∃ t j, commandWrite w s = .next t ∧ t.job = some j ∧ j.op = op ∧
      t.status = statusAfterIssue s.status .noResult .noError ∧ (engineStep t).status.err = .noError :=
  ⟨_, _, (commandWrite_of_decode_eq_ok hd s).trans h, startJob_job .., rfl, rfl, engineStep_status_err _⟩

/-- Settles O7: BUSY first; on an idle block the word decodes to one command or to none, and each command's outcomes are
those of its own refusals, installation and start. -/
theorem commandOutcomePriority : Obligations.CommandOutcomePriority := by
  intro w s
  refine ⟨fun hj => commandWrite_busy hj w, fun hj => ⟨fun e he => ?_, fun hd hg => ?_, fun hd hg => ?_,
    fun n hd => ?_, fun n hd => ?_⟩⟩
  · exact commandWrite_illegal he hj
  · exact (commandWrite_of_decode_eq_ok hd s).trans (exec_setgen_refused hj hg)
  · exact ⟨_, (commandWrite_of_decode_eq_ok hd s).trans (exec_setgen_installs hj hg), rfl, hj, rfl⟩
  · obtain ⟨hlen, hcode⟩ := encodeRefusals n s hj
    rw [← commandWrite_of_decode_eq_ok hd s] at hlen hcode
    exact ⟨hlen, hcode, fun h1 h32 hc => commandWrite_starts hd (exec_encode_starts hj h1 h32 hc)⟩
  · obtain ⟨hlen, hcode, hshort⟩ := verifyRefusals n s hj
    rw [← commandWrite_of_decode_eq_ok hd s] at hlen hcode hshort
    exact ⟨hlen, hcode, hshort, fun h64 hc hr => commandWrite_starts hd (exec_verify_starts hj h64 hc hr)⟩

end Sys2Proof.Machine

/-! Reset and hazards (70_reset_and_hazards.md): the reset event from every state (R190), and what a write does while a job
is in flight (R200). -/

namespace Sys2Proof.Machine

/-! R190: the reset event. -/

/-- Neither the turns and draws that stay nor the port's answer is part of a register. -/
@[simp] theorem regValue_resetEvent (p : Option (Nat × Access)) (s : State) (r : Reg) :
    regValue (resetEvent p s) r = regValue State.reset r := by cases r <;> rfl

@[simp] theorem resetEvent_reply_none (s : State) : (resetEvent none s).reply = none := rfl

@[simp] theorem resetEvent_reply_some (h : Nat) (a : Access) (s : State) :
    (resetEvent (some (h, a)) s).reply = some (h, replyInReset a.dir) := rfl

/-- The step of a reset turn is the reset event. -/
theorem step_of_reset {s : State} {p : Option (Nat × Access)} {rest : List Turn} (ht : s.turns = .reset p :: rest) :
    step s = .next (resetEvent p { s with turns := rest, reply := none }) := by
  simp only [step, ht, takeTurn]

/-- Settles O40: the next state is the reset event's, which keeps nothing of the block; the port's answer goes by the
direction of the presented access. -/
theorem resetFromEveryState : Obligations.ResetFromEveryState := by
  intro s p rest ht
  refine ⟨_, step_of_reset ht, fun r => regValue_resetEvent p _ r, rfl, rfl, rfl, rfl, ?_, ?_⟩
  · rintro rfl
    exact resetEvent_reply_none _
  · rintro h a rfl
    refine ⟨fun hd => ?_, fun v hd => ?_⟩
    · rw [resetEvent_reply_some, hd, replyInReset]
    · rw [resetEvent_reply_some, hd, replyInReset]

/-! R200: writes while a job is in flight. -/

/-- A write of an operand or of CMD while BUSY = 1 is ignored and sets OVR. -/
theorem memWrite_ignored {off : Offset} {s : State} (ho : off = 0x0C ∨ off = 0x18 ∨ off = 0x1C ∨ off = 0x08)
    (hj : s.job ≠ none) (v : Word) : memWrite off v s = .next (setOvr s) := by
  rcases ho with rfl | rfl | rfl | rfl
  case inr.inr.inr => exact (memWrite_cmd v s).trans (commandWrite_busy hj v)
  all_goals exact (memWrite_eq_writeTable (by decide) v s).trans (congrArg _ (if_neg hj))

/-- R56's table has no entry for a read-only register or a reserved offset. -/
theorem writeTable_of_not_writable {off : Offset} (ho : off ∉ [0x04, 0x08, 0x0C, 0x18, 0x1C]) (v : Word) (s : State) :
    writeTable off v s = s := by
  cases hr : regAt off with
  | none => exact writeTable_of_regAt_none hr v s
  | some r =>
    obtain rfl := offset_of_regAt hr
    cases r
    case status | cmd | genIn | dataLo | dataHi => exact absurd (by decide) ho
    all_goals rfl

/-- Settles O36: the step is the write, which is ignored with OVR, clears OVR, or has no entry in R56's table. -/
theorem writesWhileBusyAreIgnored : Obligations.WritesWhileBusyAreIgnored := by
  intro s h off v rest hw hj
  refine ⟨fun ho => ?_, ?_, fun ha ho => ?_⟩
  · have ha : off.toNat % 4 = 0 := by rcases ho with rfl | rfl | rfl | rfl <;> rfl
    refine (step_of_writesNext hw ha).trans (memWrite_ignored ho ?_ v)
    exact hj
  · rintro rfl
    exact (step_of_writesNext hw (by decide)).trans (memWrite_status v _)
  · have hne : off ≠ 0x08 := by rintro rfl; exact ho (by decide)
    rw [(writesReachTheRegisters s h off v rest hw ha).1 hne, writeTable_of_not_writable ho]

end Sys2Proof.Machine

/-! The round trip of the command words (30_encoding.md R72, R73, R76): the word of a command has the command's fields, and
a word is known by its fields. -/

namespace Sys2Proof.Machine

/-- R72: the LEN field of a word built from an opcode word without one and a length of 7 bits. -/
theorem lenField_or_shiftLeft {opc : Word} (ho : lenField opc = 0) (n : Nat) :
    lenField (opc ||| (BitVec.ofNat 32 n <<< 8)) = BitVec.ofNat 7 n := by
  have hshift : lenField (BitVec.ofNat 32 n <<< 8) = BitVec.ofNat 7 n := by
    refine BitVec.eq_of_toNat_eq ?_
    rw [lenField, ← toNat_div_mod_two_pow, BitVec.toNat_shiftLeft, Nat.shiftLeft_eq, BitVec.toNat_ofNat,
      BitVec.toNat_ofNat]
    omega
  calc lenField (opc ||| (BitVec.ofNat 32 n <<< 8))
      = lenField opc ||| lenField (BitVec.ofNat 32 n <<< 8) := BitVec.extractLsb'_or
    _ = BitVec.ofNat 7 n := by rw [ho, hshift]; exact BitVec.zero_or

theorem lenField_encode_encode (n : Nat) : lenField (encode (.encode n)) = BitVec.ofNat 7 n :=
  lenField_or_shiftLeft rfl n

theorem lenField_encode_verify (n : Nat) : lenField (encode (.verify n)) = BitVec.ofNat 7 n :=
  lenField_or_shiftLeft rfl n

/-- R72: every length the LEN field holds is read back from it. -/
theorem toNat_ofNat_of_lenFits {n : Nat} (h : lenFits n = true) : (BitVec.ofNat 7 n).toNat = n :=
  Nat.mod_eq_of_lt (by simpa [lenFits] using h)

theorem lenFits_toNat (l : BitVec 7) : lenFits l.toNat = true := by simp [lenFits, l.isLt]

theorem decode_encode {i : Instr} (h : WellFormed i) : decode (encode i) = .ok i := by
  cases i with
  | setgen => exact decode_of_setgenRow (Laws.RowMatch.setgen h)
  | encode n => rw [decode_of_encodeRow (Laws.RowMatch.encode n h), lenField_encode_encode, toNat_ofNat_of_lenFits h]
  | verify n => rw [decode_of_verifyRow (Laws.RowMatch.verify n h), lenField_encode_verify, toNat_ofNat_of_lenFits h]

/-- Settles O1: the word selects the command's own row, and its LEN field is the length. -/
theorem decodeOfEncodeIsTheInstruction : Obligations.DecodeOfEncodeIsTheInstruction := fun _ => decode_encode

/-- R73: everything a word that decodes can be: one row selects it, and its command is that row's. -/
theorem decode_ok_cases {w : Word} {i : Instr} (h : decode w = .ok i) :
    (setgenRow.selects w = true ∧ i = .setgen) ∨
    (encodeRow.selects w = true ∧ i = .encode (lenField w).toNat) ∨
    (verifyRow.selects w = true ∧ i = .verify (lenField w).toNat) := by
  unfold decode at h
  split_ifs at h with h1 h2 h3
  · exact .inl ⟨h1, (Except.ok.inj h).symm⟩
  · exact .inr (.inl ⟨h2, (Except.ok.inj h).symm⟩)
  · exact .inr (.inr ⟨h3, (Except.ok.inj h).symm⟩)

/-- Two words with one opcode, no reserved bit and the same LEN field are one word. -/
theorem eq_of_lenField_eq {v w : Word} {k : BitVec 4} (hv : z1Field v = 0 ∧ z0Field v = 0 ∧ opcField v = k)
    (hw : z1Field w = 0 ∧ z0Field w = 0 ∧ opcField w = k) (hl : lenField v = lenField w) : v = w := by
  obtain ⟨hv1, hv0, hvo⟩ := hv
  obtain ⟨hw1, hw0, hwo⟩ := hw
  exact eq_iff_fields_eq.2 ⟨hv1.trans hw1.symm, hl, hv0.trans hw0.symm, hvo.trans hwo.symm⟩

/-- Settles O2: a word and the word of its command select one row and have one LEN field. -/
theorem decodedWordIsItsEncoding : Obligations.DecodedWordIsItsEncoding := by
  intro w i h
  have hlen : lenFits (lenField w).toNat = true := lenFits_toNat _
  have hfield : BitVec.ofNat 7 (lenField w).toNat = lenField w := BitVec.ofNat_toNat ..
  rcases decode_ok_cases h with ⟨hs, rfl⟩ | ⟨hs, rfl⟩ | ⟨hs, rfl⟩
  · exact ⟨rfl, (setgenRow_selects.1 hs).symm⟩
  · exact ⟨hlen, eq_of_lenField_eq (encodeRow_selects_iff_fields.1 (Laws.RowMatch.encode _ hlen))
      (encodeRow_selects_iff_fields.1 hs) ((lenField_encode_encode _).trans hfield)⟩
  · exact ⟨hlen, eq_of_lenField_eq (verifyRow_selects_iff_fields.1 (Laws.RowMatch.verify _ hlen))
      (verifyRow_selects_iff_fields.1 hs) ((lenField_encode_verify _).trans hfield)⟩

end Sys2Proof.Machine

/-! The invariant of the block (10_state.md): the job in flight is one the divider takes (R40, R100), and every turn keeps
the job, the results and the verdict as the invariant says. -/

namespace Sys2Proof.Machine

/-! The parts of the invariant, of the job in flight. -/

theorem JobInv.of_job_none {s : State} (h : s.job = none) : JobInv s := fun j hj => by simp [h] at hj

/-- R40, R104: the job's snapshot is the configured generator and an operand of its length. -/
theorem JobInv.admissible {s : State} {j : Job} (hgen : GeneratorInv s) (hjob : JobInv s) (hj : s.job = some j) :
    j.admissible := by
  obtain ⟨hc, hg, hr, hd, henc, hver, -⟩ := hjob j hj
  refine ⟨?_, ?_, henc, hver⟩
  · rw [hg, hr]
    exact hgen.validGenerator hc
  · rw [hd]
    exact operand_lt s j.n

/-- Settles O48: the job invariant and R35 give the length, the generator and the operand. -/
theorem jobsInFlightAreAdmissible : Obligations.JobsInFlightAreAdmissible := fun _ _ hgen hjob hj =>
  hjob.admissible hgen hj

/-- R122, R144: a job that starts on a configured block with a length in its command's range meets the job invariant. -/
theorem jobInv_startJob {s : State} {op : JobOp} {n : Nat} (hc : s.status.codeValid = true)
    (henc : op = .enc → 1 ≤ n ∧ n ≤ 32) (hver : op = .ver → s.genDeg.toNat ≤ n ∧ n ≤ 64) :
    JobInv (startJob op n (issueClear s)) := by
  intro j hj
  obtain rfl := Option.some.inj ((startJob_job (issueClear s) op n).symm.trans hj)
  exact ⟨hc, rfl, rfl, rfl, henc, hver, rfl, rfl, rfl⟩

/-! The verdict. -/

/-- The issue-time clearing of R163 leaves no verdict. -/
theorem verdictInv_of_cleared {s : State} (hok : s.status.ok = false) (hres : s.status.result = .noResult)
    (herr : s.status.err ≠ .malformedFrame) : VerdictInv s := by
  simp [VerdictInv, hok, hres, herr]

/-- R142: VERIFY without a generator. -/
theorem verdictInv_noCode {s : State} (hc : s.status.codeValid = false) :
    VerdictInv (raiseCmdError .noCode (setResult .codeError (issueClear s))) := by
  simp [VerdictInv, hc]

/-- R143: VERIFY of a short frame. -/
theorem verdictInv_shortFrame (s : State) :
    VerdictInv (raiseCmdError .malformedFrame (setResult .dataError (issueClear s))) := by
  simp [VerdictInv]

/-- R146: the verdict on a remainder, which REM then holds. -/
theorem verdictInv_verified {s : State} {j : Job} (hj : s.job = some j) (hop : j.op = .ver) (hadm : j.admissible)
    (herr : s.status.err = .noError) : VerdictInv (engineStep s) := by
  have hrem : (engineStep s).rem = 0 ↔ j.remainder = 0 := by
    rw [← engineStep_ver_rem_toNat hj hop hadm]
    exact BitVec.toNat_inj.symm
  rw [VerdictInv, ne_eq, hrem]
  by_cases hm : j.remainder = 0
  · simp [engineStep_ver_status_of_remainder_eq_zero hj hop hm, hm, herr]
  · simp [engineStep_ver_status_of_remainder_ne_zero hj hop hm, hm, herr]

/-! The results. -/

theorem two_pow_degree_le (r : BitVec 5) : 2 ^ r.toNat ≤ 2 ^ 31 := Nat.pow_le_pow_right two_pos (by omega)

/-- R124, R31 to R34: the widths of what ENCODE writes. -/
theorem resultInv_encoded {s : State} {j : Job} (hj : s.job = some j) (hop : j.op = .enc) (hadm : j.admissible) :
    ResultInv (engineStep s) := by
  obtain ⟨-, h63⟩ := encFrame_len_mem_range hop hadm
  have hchk := engineStep_enc_chk_toNat hop hadm hj
  have hrem : (engineStep s).rem = (engineStep s).chk := by rw [engineStep_enc hj hop]; rfl
  rw [ResultInv, engineStep_enc_outPair_toNat hop hadm hj, engineStep_enc_outLen_toNat hop hadm hj, hrem, hchk]
  obtain ⟨hG, hd, -, -⟩ := hadm
  have hc := (checksum_lt hG j.d.toNat j.n).trans_le (two_pow_degree_le j.r)
  exact ⟨frame_lt hG hd, h63, hc, hc⟩

theorem engineStep_ver_outPair_toNat {s : State} {j : Job} (hj : s.job = some j) (hop : j.op = .ver)
    (hadm : j.admissible) : (outPair (engineStep s)).toNat = payloadSegment j.d.toNat j.r.toNat := by
  rw [engineStep_ver hj hop, completeVerify, outPair_endJob, outPair_setVerdict,
    outPair_toNat_writeResults ((payloadSegment_lt hop hadm).trans (by decide))]

theorem payloadSegment_lt_two_pow {F n r : Nat} (hF : F < 2 ^ n) (hr : r ≤ n) : payloadSegment F r < 2 ^ (n - r) := by
  rw [payloadSegment, Nat.shiftRight_eq_div_pow]
  refine Nat.div_lt_of_lt_mul ?_
  rwa [← pow_add, Nat.add_sub_cancel' hr]

/-- R147, R31 to R34: the widths of what VERIFY writes. -/
theorem resultInv_verified {s : State} {j : Job} (hj : s.job = some j) (hop : j.op = .ver) (hadm : j.admissible) :
    ResultInv (engineStep s) := by
  obtain ⟨hr, h63⟩ := verFrame_len_mem_range hop hadm
  rw [ResultInv, engineStep_ver_outPair_toNat hj hop hadm, engineStep_ver_outLen_toNat hj hop hadm,
    engineStep_ver_chk_toNat hj hop, engineStep_ver_rem_toNat hj hop hadm]
  have hrem := (remainder_lt hadm).trans_le (two_pow_degree_le j.r)
  obtain ⟨-, hd, -, -⟩ := hadm
  exact ⟨payloadSegment_lt_two_pow hd hr, h63, (checksumSegment_lt _ _).trans_le (two_pow_degree_le j.r), hrem⟩

/-! Each kind of turn. -/

theorem reset_inv : Inv State.reset :=
  ⟨reset_generatorInv, JobInv.of_job_none rfl, by unfold ResultInv; decide, verdictInv_of_cleared rfl rfl (by decide)⟩

/-- Settles O45: the four parts of the invariant at reset. -/
theorem resetMeetsTheInvariant : Obligations.ResetMeetsTheInvariant := reset_inv

/-- What the invariant says beside the generator's part of R35. -/
def ExecutionInv (s : State) : Prop := JobInv s ∧ ResultInv s ∧ VerdictInv s

theorem inv_iff (s : State) : Inv s ↔ GeneratorInv s ∧ ExecutionInv s := Iff.rfl

/-- R196: a completion. -/
theorem engineStep_executionInv {s : State} (hs : Inv s) : ExecutionInv (engineStep s) := by
  obtain ⟨hgen, hjob, hres, hver⟩ := hs
  refine ⟨JobInv.of_job_none (engineStep_job s), ?_⟩
  cases hj : s.job with
  | none => rw [engineStep_none hj]; exact ⟨hres, hver⟩
  | some j =>
    have hadm := hjob.admissible hgen hj
    obtain ⟨-, -, -, -, -, -, hok, hnone, herr⟩ := hjob j hj
    cases hop : j.op with
    | enc =>
      have hstatus : (engineStep s).status = s.status := by rw [engineStep_enc hj hop]; rfl
      exact ⟨resultInv_encoded hj hop hadm,
        verdictInv_of_cleared (by rw [hstatus, hok]) (by rw [hstatus, hnone]) (by rw [hstatus, herr]; decide)⟩
    | ver => exact ⟨resultInv_verified hj hop hadm, verdictInv_verified hj hop hadm herr⟩

/-- A write: an operand while no job is in flight, a command's issue, or OVR. -/
theorem WriteEffect.executionInv {off : Offset} {v : Word} {s t : State} (h : WriteEffect off v s t)
    (hs : ExecutionInv s) : ExecutionInv t := by
  obtain ⟨hjob, hres, hver⟩ := hs
  cases h with
  | nothing | ignored | cleared => exact ⟨hjob, hres, hver⟩
  | genIn _ hj | dataLo _ hj | dataHi _ hj => exact ⟨JobInv.of_job_none hj, hres, hver⟩
  | refused e _ hj he =>
    have hne : e ≠ .malformedFrame := by rintro rfl; exact absurd he (by decide)
    exact ⟨JobInv.of_job_none hj, hres, verdictInv_of_cleared rfl rfl hne⟩
  | noCode _ hj hc => exact ⟨JobInv.of_job_none hj, hres, verdictInv_noCode hc⟩
  | shortFrame _ hj => exact ⟨JobInv.of_job_none hj, hres, verdictInv_shortFrame s⟩
  | installed _ _ hj => exact ⟨JobInv.of_job_none hj, hres, verdictInv_of_cleared rfl rfl (by simp)⟩
  | encStarted n _ _ hc h1 h32 =>
    exact ⟨jobInv_startJob hc (fun _ => ⟨h1, h32⟩) nofun, hres, verdictInv_of_cleared rfl rfl (by simp)⟩
  | verStarted n _ _ hc hr h64 =>
    exact ⟨jobInv_startJob hc nofun (fun _ => ⟨hr, h64⟩), hres, verdictInv_of_cleared rfl rfl (by simp)⟩

/-- Settles O46: R35's part is kept as O47 says, and the rest by a case split on the turn. The turns, the reply and the
draws are no part of the invariant, so that it holds of the state with the turn taken off. -/
theorem everyStepKeepsTheInvariant : Obligations.EveryStepKeepsTheInvariant := by
  intro s t hs h
  obtain ⟨hgen, hexec⟩ := (inv_iff s).1 hs
  refine (inv_iff t).2 ⟨step_keeps_generatorInv hgen h, ?_⟩
  cases step_effect h with
  | engine _ => exact engineStep_executionInv (s := { s with turns := s.turns.tail, reply := none }) hs
  | reset p rest _ => exact reset_inv.2
  | answered | drawn => exact hexec
  | write k off v rest _ _ he => exact he.executionInv hexec

end Sys2Proof.Machine

/-! The CMD write as one shared operation (R162): a command is what its word does to an idle block after the issue-time
clearing. The frame of the three commands, and what ENCODE depends on (R126). -/

namespace Sys2Proof.Machine

/-- A command's own part (R91, R121, R122, R141 to R144). -/
def instrCommand : Instr → State → State
  | .setgen => setgenCommand
  | .encode n => encodeCommand n
  | .verify n => verifyCommand n

theorem exec_eq_issue (i : Instr) (s : State) : exec i s = .next (issue s (instrCommand i)) := by cases i <;> rfl

/-- Everything a command's own part can do after the issue-time clearing: refuse, install a generator, or start a job. -/
theorem instrCommand_cases (i : Instr) (s : State) :
    (∃ c e, instrCommand i (issueClear s) = { s with status := statusAfterIssue s.status c e }) ∨
    (i = .setgen ∧ instrCommand i (issueClear s) = installGenerator s.genIn (issueClear s)) ∨
    (i ≠ .setgen ∧ ∃ op n, instrCommand i (issueClear s) = startJob op n (issueClear s)) := by
  cases i with
  | setgen =>
    rcases setgenCommand_cases (issueClear s) with ⟨-, e⟩ | ⟨-, e⟩
    · exact .inl ⟨_, _, e.trans (raiseCmdError_issueClear _ s)⟩
    · exact .inr (.inl ⟨rfl, e⟩)
  | encode n =>
    rcases encodeCommand_cases n (issueClear s) with ⟨-, e⟩ | ⟨-, -, -, e⟩ | ⟨-, -, -, e⟩
    · exact .inl ⟨_, _, e.trans (raiseCmdError_issueClear _ s)⟩
    · exact .inl ⟨_, _, e.trans (raiseCmdError_issueClear _ s)⟩
    · exact .inr (.inr ⟨nofun, _, _, e⟩)
  | verify n =>
    rcases verifyCommand_cases n (issueClear s) with ⟨-, e⟩ | ⟨-, -, e⟩ | ⟨-, -, -, e⟩ | ⟨-, -, -, e⟩
    · exact .inl ⟨_, _, e.trans (raiseCmdError_issueClear _ s)⟩
    · exact .inl ⟨_, _, e.trans (raiseCmdError_setResult_issueClear _ _ s)⟩
    · exact .inl ⟨_, _, e.trans (raiseCmdError_setResult_issueClear _ _ s)⟩
    · exact .inr (.inr ⟨nofun, _, _, e⟩)

/-! What of a register's value an update can reach. -/

/-- Only STATUS shows the flags. -/
theorem regValue_of_status_ne {r : Reg} (hr : r ≠ .status) (s : State) (st : Status) :
    regValue { s with status := st } r = regValue s r := by
  cases r
  case status => exact absurd rfl hr
  all_goals rfl

/-- Only STATUS shows that a job is in flight. -/
theorem regValue_startJob {r : Reg} (hr : r ≠ .status) (op : JobOp) (n : Nat) (s : State) :
    regValue (startJob op n s) r = regValue s r := by
  cases r
  case status => exact absurd rfl hr
  all_goals rfl

theorem regValue_installGenerator {r : Reg} (hr : r ≠ .status) (hg : r ≠ .gen) (hd : r ≠ .genDeg) (v : Word)
    (s : State) : regValue (installGenerator v s) r = regValue s r := by
  cases r
  case status => exact absurd rfl hr
  case gen => exact absurd rfl hg
  case genDeg => exact absurd rfl hd
  all_goals rfl

/-- Settles O15: a busy block sets OVR only; on an idle one each of the three effects of a command keeps what it does not
name. -/
theorem commandsKeepOtherRegisters : Obligations.CommandsKeepOtherRegisters := by
  intro i s t h
  obtain rfl := Host.Outcome.next.inj ((exec_eq_issue i s).symm.trans h)
  by_cases hj : s.job = none
  · rw [issue_idle hj]
    rcases instrCommand_cases i s with ⟨c, e, ht⟩ | ⟨hi, ht⟩ | ⟨hi, op, n, ht⟩ <;> rw [ht]
    · exact ⟨fun r hr _ => regValue_of_status_ne hr s _, fun _ => rfl, fun _ => rfl, fun _ => rfl,
        fun hb => absurd hj hb, rfl, rfl, rfl⟩
    · refine ⟨fun r hr hg => ?_, fun hne => absurd hi hne, fun _ => rfl, fun _ => rfl, fun hb => absurd hj hb, rfl, rfl,
        rfl⟩
      obtain ⟨hgen, hdeg⟩ := hg hi
      exact (regValue_installGenerator hr hgen hdeg _ _).trans (regValue_of_status_ne hr s _)
    · exact ⟨fun r hr _ => (regValue_startJob hr op n _).trans (regValue_of_status_ne hr s _), fun _ => rfl,
        fun hs => absurd hs hi, fun _ => rfl, fun hb => absurd hj hb, rfl, rfl, rfl⟩
  · rw [issue_busy hj]
    exact ⟨fun r hr _ => regValue_of_status_ne hr s _, fun _ => rfl, fun _ => rfl, fun hn => absurd hn hj, fun _ => rfl,
      rfl, rfl, rfl⟩

/-- Settles O6: the turn is the write of CMD, and the write of a word that decodes is its command. -/
theorem stepRunsTheWrittenCommand : Obligations.StepRunsTheWrittenCommand := by
  intro s h w rest i hw hd
  rw [step_of_writesNext hw (by decide), ← commandWrite_of_decode_eq_ok hd]
  exact memWrite_cmd w _

/-- Settles O11: the checks pass, and the operand is DATA mod 2^n. -/
theorem encodeStartsItsJob : Obligations.EncodeStartsItsJob := fun n s hj hc h1 h32 =>
  ⟨operand s n, operand_toNat_eq_dataNat s n, exec_encode_starts hj h1 h32 hc⟩

/-- Settles O13: the checks pass, and the operand is DATA mod 2^n. -/
theorem verifyStartsItsJob : Obligations.VerifyStartsItsJob := fun n s hj hc h64 hr =>
  ⟨operand s n, operand_toNat_eq_dataNat s n, exec_verify_starts hj h64 hc hr⟩

/-! ENCODE as a function of its inputs (R126). -/

/-- R41: the results of one ENCODE job are the same from any two states that have it in flight. -/
theorem engineStep_enc_congr {t t' : State} {j : Job} (hj : t.job = some j) (hj' : t'.job = some j)
    (hop : j.op = .enc) :
    (engineStep t).chk = (engineStep t').chk ∧ (engineStep t).rem = (engineStep t').rem ∧
      (engineStep t).outLo = (engineStep t').outLo ∧ (engineStep t).outHi = (engineStep t').outHi ∧
      (engineStep t).outLen = (engineStep t').outLen := by
  rw [engineStep_enc hj hop, engineStep_enc hj' hop]
  exact ⟨rfl, rfl, rfl, rfl, rfl⟩

/-- R106: leading zeros of the payload move up with the checksum's place and stay leading zeros. -/
theorem checksum_add_len {P n : Nat} (k G r : Nat) (hP : P < 2 ^ n) : checksum P (n + k) G r = checksum P n G r := by
  rw [checksum, checksum, Nat.add_right_comm]
  exact pmod_add_len k G r (Nat.shiftLeft_lt hP)

/-- Settles O25: both states start the same job, since the operand and the generator are the agreed inputs. -/
theorem encodeIsPure : Obligations.EncodeIsPure := by
  refine ⟨fun n s s' hj hj' hc hc' h1 h32 hgen hdeg hdata => ?_, fun P n k G r hP => checksum_add_len k G r hP⟩
  have hoperand : operand s n = operand s' n :=
    BitVec.eq_of_toNat_eq (by rw [operand_toNat_eq_dataNat, operand_toNat_eq_dataNat, hdata])
  have hjob : (startJob .enc n (issueClear s')).job =
      some { op := .enc, n := n, d := operand s n, g := s.gen, r := s.genDeg } := by
    rw [hoperand, hgen, hdeg]
    rfl
  exact ⟨_, _, exec_encode_starts hj h1 h32 hc, exec_encode_starts hj' h1 h32 hc',
    engineStep_enc_congr (startJob_job ..) hjob rfl⟩

/-! The host's view of the window (R51, R57). -/

/-- Settles O38: neighbouring lanes join to the whole word, and the base cancels. -/
theorem hostLanesFormTheRegister : Obligations.HostLanesFormTheRegister := by
  refine ⟨fun v => ?_, fun off => ?_⟩
  · simp only [wordOfLanes, laneByte]
    rw [BitVec.extractLsb'_append_extractLsb'_eq_extractLsb' (by rfl),
      BitVec.extractLsb'_append_extractLsb'_eq_extractLsb' (by rfl),
      BitVec.extractLsb'_append_extractLsb'_eq_extractLsb' (by rfl)]
    exact BitVec.extractLsb'_eq_self
  · have hoff : off.toNat < Config.window := off.isLt
    have hin : Config.crcBase ≤ hostAddress off 0 ∧ hostAddress off 0 < Config.crcBase + Config.window := by
      rw [hostAddress]
      omega
    have hback : hostAddress off 0 - Config.crcBase = off.toNat := by
      rw [hostAddress]
      omega
    rw [windowOffset, if_pos hin, hback, BitVec.ofNat_toNat, BitVec.setWidth_eq]

end Sys2Proof.Machine

/-! Steps and histories (10_state.md, 70_reset_and_hazards.md): that every step has a next state (R55), what a step can do to
each flag and to the results (R26, R36, R43), and the software rule of R202. -/

namespace Sys2Proof.Machine

/-- No turn stops the machine. -/
theorem exists_takeTurn_eq_next (t : Turn) (s : State) : ∃ u, takeTurn t s = .next u := by
  cases t with
  | access h a =>
    obtain ⟨u, hu, -⟩ := performAccess_cases h a s
    exact ⟨u, hu⟩
  | engine => exact ⟨_, rfl⟩
  | reset p => exact ⟨_, rfl⟩

theorem exists_step_eq_next (s : State) : ∃ t, step s = .next t := by
  cases ht : s.turns with
  | nil => exact ⟨_, by rw [step, ht, quietTurn]⟩
  | cons x rest =>
    obtain ⟨u, hu⟩ := exists_takeTurn_eq_next x { s with turns := rest, reply := none }
    exact ⟨u, by rw [step, ht]; exact hu⟩

/-- Settles O44: a quiet turn has a next state, and so has every turn that can be pending. -/
theorem everyStepHasANextState : Obligations.EveryStepHasANextState := exists_step_eq_next

/-! The model's own fields, which no register shows. -/

/-- A state with other pending turns, another answer of the port and another count of draws (logs 1, 4, 5). -/
def State.withPort (ts : List Turn) (p : Option (Nat × Reply)) (d : Nat) (s : State) : State :=
  { s with turns := ts, reply := p, draws := d }

@[simp] theorem regValue_withPort (ts : List Turn) (p : Option (Nat × Reply)) (d : Nat) (s : State) (r : Reg) :
    regValue (s.withPort ts p d) r = regValue s r := by cases r <;> rfl

/-! The engine's turn (R196). -/

/-- The step of the engine's turn is the engine's step. -/
theorem step_of_engine {s : State} {rest : List Turn} (ht : s.turns = .engine :: rest) :
    step s = .next (engineStep { s with turns := rest, reply := none }) := by
  simp only [step, ht, takeTurn]

/-- R40: BUSY reads 0 when no job is in flight. -/
theorem statusWord_busy_of_job_none {s : State} (h : s.job = none) : (statusWord s).getLsbD 0 = false := by
  rw [statusWord_getLsbD, if_pos rfl, h]
  rfl

/-- Settles O41: without a job the engine's step keeps the state; with one it is that job's completion. -/
theorem engineStepEndsTheJob : Obligations.EngineStepEndsTheJob := by
  intro s rest ht
  rw [step_of_engine ht]
  refine ⟨fun hj => ?_, fun j hj => ⟨?_, _, rfl, engineStep_job _, statusWord_busy_of_job_none (engineStep_job _)⟩⟩
  · exact congrArg _ (engineStep_none hj)
  · cases hop : j.op with
    | enc => exact congrArg _ (engineStep_enc hj hop)
    | ver => exact congrArg _ (engineStep_ver hj hop)

/-! What a write can do to the fields the histories speak of. -/

section Write

variable {off : Offset} {v : Word} {s t : State} (h : WriteEffect off v s t)
include h

theorem WriteEffect.turns_eq : t.turns = s.turns := by cases h <;> rfl

theorem WriteEffect.draws_eq : t.draws = s.draws := by cases h <;> rfl

/-- R36: no write reaches a result register. -/
theorem WriteEffect.regValue_result {r : Reg} (hr : r.isResult = true) : regValue t r = regValue s r := by
  cases r
  case outLo | outHi | outLen | chk | rem => cases h <;> rfl
  all_goals exact absurd hr (by decide)

/-- R43, R163: OK, RESULT and ERR are written by a CMD write that is not ignored, and by no other. -/
theorem WriteEffect.verdict_cases :
    (off = 0x08 ∧ s.job = none) ∨
    (t.status.ok = s.status.ok ∧ t.status.result = s.status.result ∧ t.status.err = s.status.err) := by
  cases h with
  | nothing | ignored | cleared | genIn | dataLo | dataHi => exact .inr ⟨rfl, rfl, rfl⟩
  | refused e ho hj => exact .inl ⟨ho, hj⟩
  | noCode ho hj | shortFrame ho hj => exact .inl ⟨ho, hj⟩
  | installed ho _ hj => exact .inl ⟨ho, hj⟩
  | encStarted n ho hj | verStarted n ho hj => exact .inl ⟨ho, hj⟩

/-- R43, R200: OVR is set by a write ignored for BUSY, and cleared by writing a 1 to it. -/
theorem WriteEffect.ovr_cases :
    t.status.ovr = s.status.ovr ∨
    (t.status.ovr = true ∧ s.job ≠ none ∧ off ∈ ([0x08, 0x0C, 0x18, 0x1C] : List Offset)) ∨
    (t.status.ovr = false ∧ off = 0x04 ∧ v.getLsbD 16 = true) := by
  cases h with
  | ignored ho hj => exact .inr (.inl ⟨rfl, hj, ho⟩)
  | cleared ho hv => exact .inr (.inr ⟨rfl, ho, hv⟩)
  | _ => exact .inl rfl

end Write

/-! What a step can do to them. -/

/-- Everything a step can do to OVR. -/
theorem step_ovr_cases {s t : State} (h : step s = .next t) :
    t.status.ovr = s.status.ovr ∨
    (t.status.ovr = true ∧ s.job ≠ none ∧
      ∃ k off v rest, WritesNext s k off v rest ∧ off ∈ ([0x08, 0x0C, 0x18, 0x1C] : List Offset)) ∨
    (t.status.ovr = false ∧
      ((∃ p rest, s.turns = .reset p :: rest) ∨ ∃ k v rest, WritesNext s k 0x04 v rest ∧ v.getLsbD 16 = true)) := by
  cases step_effect h with
  | engine _ => exact .inl (by simp)
  | reset p rest ht => exact .inr (.inr ⟨rfl, .inl ⟨p, rest, ht⟩⟩)
  | answered | drawn => exact .inl rfl
  | write k off v rest _ ht he =>
    rcases he.ovr_cases with e | ⟨e, hj, ho⟩ | ⟨e, rfl, hv⟩
    · exact .inl e
    · exact .inr (.inl ⟨e, hj, k, off, v, rest, ht, ho⟩)
    · exact .inr (.inr ⟨e, .inr ⟨k, v, rest, ht, hv⟩⟩)

/-- Settles O50: of the three things a step can do to OVR, one sets and one clears it. -/
theorem ovrIsStickyUntilCleared : Obligations.OvrIsStickyUntilCleared := by
  intro s t h
  rcases step_ovr_cases h with e | ⟨e, hj, hw⟩ | ⟨e, hc⟩
  · exact ⟨fun h0 h1 => absurd (h0.symm.trans (e.symm.trans h1)) Bool.false_ne_true,
      fun h1 h0 => absurd (h0.symm.trans (e.trans h1)) Bool.false_ne_true⟩
  · exact ⟨fun _ _ => ⟨hj, hw⟩, fun _ h0 => absurd (h0.symm.trans e) Bool.false_ne_true⟩
  · exact ⟨fun _ h1 => absurd (e.symm.trans h1) Bool.false_ne_true, fun _ _ => hc⟩

/-- Settles O49: a step that changes GEN or GEN_DEG does not keep the generator fields, so it installs or resets. -/
theorem generatorChangesOnlyBySetgenOrReset : Obligations.GeneratorChangesOnlyBySetgenOrReset := by
  intro s t h hne
  rcases step_generatorFields_cases h with hkept | ⟨k, rest, hw, hj, hg, hnew⟩ | ⟨p, rest, ht, -⟩
  · simp only [generatorFields, Prod.mk.injEq] at hkept
    obtain ⟨-, hgen, hdeg⟩ := hkept
    exact (hne.elim (fun hn => hn hgen) fun hn => hn hdeg).elim
  · simp only [generatorFields, Prod.mk.injEq] at hnew
    obtain ⟨-, hgen, hdeg⟩ := hnew
    exact .inr ⟨k, rest, hw, hj, hg, hgen, by rw [hdeg, toNat_ofNat_bitlen_pred hg]⟩
  · exact .inl ⟨p, rest, ht⟩

/-- Settles O51: the engine's step changes a register only when it ends a job, and no access reaches a result register. -/
theorem resultsChangeOnlyAtCompletion : Obligations.ResultsChangeOnlyAtCompletion := by
  rintro s t h ⟨r, hr, hne⟩
  cases step_effect h with
  | engine _ =>
    refine .inr ⟨fun hj => hne ?_, engineStep_job _⟩
    have hidle : engineStep { s with turns := s.turns.tail, reply := none } = s.withPort s.turns.tail none s.draws :=
      engineStep_none hj
    rw [hidle, regValue_withPort]
  | reset p rest ht => exact .inl ⟨p, rest, ht⟩
  | answered | drawn => exact (hne (regValue_withPort _ _ _ s r)).elim
  | write k off v rest _ ht he =>
    exact (hne ((he.regValue_result hr).trans (regValue_withPort _ _ _ s r))).elim

/-- R146, R124: OK and RESULT are written by the completion of a VERIFY job, and by no other engine step. -/
theorem engineStep_verdict_cases (s : State) :
    (∃ j, s.job = some j ∧ j.op = .ver) ∨
    ((engineStep s).status.ok = s.status.ok ∧ (engineStep s).status.result = s.status.result) := by
  rcases engineStep_cases s with ⟨-, e⟩ | ⟨j, -, -, e⟩ | ⟨j, hj, hop, -⟩
  · rw [e]; exact .inr ⟨rfl, rfl⟩
  · rw [e]; exact .inr ⟨rfl, rfl⟩
  · exact .inl ⟨j, hj, hop⟩

/-- Settles O52: a case split on the turn, where a completion leaves ERR and only that of a VERIFY writes the verdict. -/
theorem verdictPersists : Obligations.VerdictPersists := by
  intro s t h
  cases step_effect h with
  | engine _ =>
    refine ⟨fun hne => (hne (by simp)).elim, fun hne => .inr (.inr ?_)⟩
    rcases engineStep_verdict_cases { s with turns := s.turns.tail, reply := none } with ⟨j, hj, hop⟩ | ⟨hok, hres⟩
    · exact ⟨j, hj, hop, engineStep_job _⟩
    · exact (hne.elim (fun hn => hn hok) fun hn => hn hres).elim
  | reset p rest ht => exact ⟨fun _ => .inl ⟨p, rest, ht⟩, fun _ => .inl ⟨p, rest, ht⟩⟩
  | answered | drawn => exact ⟨fun hne => (hne rfl).elim, fun hne => (hne.elim (fun hn => hn rfl) fun hn => hn rfl).elim⟩
  | write k off v rest _ ht he =>
    rcases he.verdict_cases with ⟨rfl, hj⟩ | ⟨hok, hres, herr⟩
    · exact ⟨fun _ => .inr ⟨hj, k, v, rest, ht⟩, fun _ => .inr (.inl ⟨hj, k, v, rest, ht⟩)⟩
    · exact ⟨fun hne => (hne herr).elim, fun hne => (hne.elim (fun hn => hn hok) fun hn => hn hres).elim⟩

/-! R202, the software rule. -/

/-- A write of CMD or of an operand is one to hold back. -/
theorem mustWait_write {off : Offset} (ho : off ∈ ([0x08, 0x0C, 0x18, 0x1C] : List Offset)) (v : Word) :
    Access.mustWait { off := off, size := 4, dir := .write v } = true := by
  have hreg : ∀ o ∈ ([0x08, 0x0C, 0x18, 0x1C] : List Offset), o.toNat % 4 = 0 ∧
      ∃ r ∈ [Reg.genIn, .dataLo, .dataHi, .cmd], regAt o = some r := by decide
  obtain ⟨ha, r, hr, hat⟩ := hreg off ho
  have hadm : Access.admitted { off := off, size := 4, dir := .write v } = true := (admitted_iff _).2 ⟨rfl, ha⟩
  rw [Access.mustWait, hadm, Bool.true_and]
  simp only [hat]
  simpa [or_assoc] using hr

/-- A read of a result register is one to hold back. -/
theorem mustWait_read {off : Offset} {r : Reg} (hr : regAt off = some r) (hres : r.isResult = true) :
    Access.mustWait { off := off, size := 4, dir := .read } = true := by
  obtain rfl := offset_of_regAt hr
  cases r
  case outLo | outHi | outLen | chk | rem => rfl
  all_goals exact absurd hres (by decide)

/-- Settles O54: the accesses that set OVR or draw a value while BUSY are those the rule holds back. -/
theorem waitRuleAvoidsHazards : Obligations.WaitRuleAvoidsHazards := by
  intro s t h a rest ht hrule hstep
  have hwait : s.job ≠ none → a.mustWait ≠ true := fun hj hm => by simp [hrule (busy_eq_true.2 hj)] at hm
  have hturn {x : Turn} {l : List Turn} (hx : s.turns = x :: l) : x = .access h a :=
    (List.cons.inj (hx.symm.trans ht)).1
  refine ⟨fun h0 => ?_, ?_⟩
  · rcases step_ovr_cases hstep with e | ⟨-, hj, k, off, v, l, hw, ho⟩ | ⟨e, -⟩
    · exact e.trans h0
    · obtain ⟨-, rfl⟩ := Turn.access.inj (hturn hw)
      exact absurd (mustWait_write ho v) (hwait hj)
    · exact e
  · cases step_effect hstep with
    | engine _ => simp
    | reset | answered => rfl
    | drawn k off l hx r hr hres hj =>
      obtain ⟨-, rfl⟩ := Turn.access.inj (hturn hx)
      exact absurd (mustWait_read hr hres) (hwait hj)
    | write k off v l _ _ he => exact he.draws_eq

end Sys2Proof.Machine

/-! What the model's own fields decide, and what they do not: every operation of the block commutes with them, so that hosts
are not told apart (R175) and the latency of a job does not matter (R41, R197). -/

namespace Sys2Proof.Machine

/-! The operations commute with the turns, the reply and the draws. -/

/-- A completion commutes with every change of the state that keeps the job and that its updates commute with. -/
theorem engineStep_comm {f : State → State} (hjob : ∀ s, (f s).job = s.job)
    (hresults : ∀ out len chk rem s, writeResults out len chk rem (f s) = f (writeResults out len chk rem s))
    (hverdict : ∀ m s, setVerdict m (f s) = f (setVerdict m s)) (hend : ∀ s, endJob (f s) = f (endJob s)) (s : State) :
    engineStep (f s) = f (engineStep s) := by
  rcases engineStep_cases s with ⟨hj, e⟩ | ⟨j, hj, hop, e⟩ | ⟨j, hj, hop, e⟩
  · rw [e, engineStep_none ((hjob s).trans hj)]
  · rw [e, engineStep_enc ((hjob s).trans hj) hop, completeEncode, hresults, hend, completeEncode]
  · rw [e, engineStep_ver ((hjob s).trans hj) hop, completeVerify, hresults, hverdict, hend, completeVerify]

section Port

variable (ts : List Turn) (p : Option (Nat × Reply)) (d : Nat)

theorem setVerdict_withPort (m : Nat) (s : State) :
    setVerdict m (s.withPort ts p d) = (setVerdict m s).withPort ts p d := by
  by_cases hm : m = 0
  · subst hm; rfl
  · simp only [setVerdict, if_neg hm]; rfl

theorem engineStep_withPort (s : State) : engineStep (s.withPort ts p d) = (engineStep s).withPort ts p d :=
  engineStep_comm (f := State.withPort ts p d) (fun _ => rfl) (fun _ _ _ _ _ => rfl) (setVerdict_withPort ts p d) (fun _ => rfl) s

theorem instrCommand_withPort (i : Instr) (s : State) :
    instrCommand i (s.withPort ts p d) = (instrCommand i s).withPort ts p d := by
  cases i with
  | setgen =>
    simp only [instrCommand, setgenCommand, apply_ite (State.withPort ts p d)]
    rfl
  | encode n =>
    simp only [instrCommand, encodeCommand, apply_ite (State.withPort ts p d)]
    rfl
  | verify n =>
    simp only [instrCommand, verifyCommand, apply_ite (State.withPort ts p d)]
    rfl

/-- The CMD write's shared part, of a command's part that commutes (R162). -/
theorem issue_withPort {c : State → State} (hc : ∀ s, c (s.withPort ts p d) = (c s).withPort ts p d) (s : State) :
    issue (s.withPort ts p d) c = (issue s c).withPort ts p d := by
  by_cases hj : s.job = none
  · have hj' : (s.withPort ts p d).job = none := hj
    rw [issue_idle hj, issue_idle hj', ← hc]
    rfl
  · have hj' : (s.withPort ts p d).job ≠ none := hj
    rw [issue_busy hj, issue_busy hj']
    rfl

/-- What the word written to CMD does to an idle block after the issue-time clearing (R162, R164). -/
def wordCommand (w : Word) : State → State :=
  match decode w with
  | .ok i => instrCommand i
  | .error _ => raiseCmdError .illegalCmd

theorem wordCommand_of_decode {w : Word} {i : Instr} (h : decode w = .ok i) : wordCommand w = instrCommand i := by
  simp only [wordCommand, h]

theorem commandWrite_eq_issue (w : Word) (s : State) : commandWrite w s = .next (issue s (wordCommand w)) := by
  cases hd : decode w with
  | ok i => rw [commandWrite_of_decode_eq_ok hd, exec_eq_issue, wordCommand_of_decode hd]
  | error e => simp only [commandWrite, wordCommand, hd, execIllegal]

theorem wordCommand_withPort (w : Word) (s : State) :
    wordCommand w (s.withPort ts p d) = (wordCommand w s).withPort ts p d := by
  cases hd : decode w with
  | ok i => rw [wordCommand_of_decode hd, instrCommand_withPort]
  | error e =>
    simp only [wordCommand, hd]
    rfl

theorem writeTable_withPort (off : Offset) (v : Word) (s : State) :
    writeTable off v (s.withPort ts p d) = (writeTable off v s).withPort ts p d := by
  simp only [State.withPort]
  unfold writeTable
  split
  case h_5 => rfl
  all_goals split <;> rfl

theorem memWrite_withPort {off : Offset} {v : Word} {s t : State} (h : memWrite off v s = .next t) :
    memWrite off v (s.withPort ts p d) = .next (t.withPort ts p d) := by
  by_cases ho : off = Reg.cmd.offset
  · subst ho
    rw [memWrite_cmd, commandWrite_eq_issue] at h ⊢
    rw [issue_withPort ts p d (wordCommand_withPort ts p d v)]
    exact congrArg _ (congrArg _ (Host.Outcome.next.inj h))
  · rw [memWrite_eq_writeTable ho] at h ⊢
    rw [writeTable_withPort]
    exact congrArg _ (congrArg _ (Host.Outcome.next.inj h))

end Port

/-! R175: hosts. -/

/-- The block's answer to another host is the same. -/
theorem performAccess_other_host {h : Nat} {a : Access} {s t : State} (h' : Nat) (hp : performAccess h a s = .next t) :
    performAccess h' a s = .next { t with reply := t.reply.map fun p => (h', p.2) } := by
  obtain ⟨t', ht', hc⟩ := performAccess_cases h a s
  obtain rfl := Host.Outcome.next.inj (hp.symm.trans ht')
  rcases hc with ⟨ha, rfl⟩ | ⟨ha, hd, rfl⟩ | ⟨ha, v, hd, hw⟩
  · rw [performAccess, ha]; rfl
  · rw [performAccess, ha, hd]; rfl
  · have hreply : t.reply = some (h, .written) := memWrite_reply hw
    have hw' := memWrite_withPort s.turns (some (h', .written)) s.draws hw
    have hkeep := memWrite_effect hw
    rw [performAccess, ha, hd, hreply]
    refine hw'.trans (congrArg _ ?_)
    rw [State.withPort, ← show t.turns = s.turns from hkeep.turns_eq, ← show t.draws = s.draws from hkeep.draws_eq]
    rfl

/-- Settles O53: a step at a host's turn is its access. -/
theorem hostsAreNotIdentified : Obligations.HostsAreNotIdentified := by
  intro s h h' a rest
  obtain ⟨t, ht⟩ := exists_step_eq_next { s with turns := .access h a :: rest }
  refine ⟨t, ht, ?_⟩
  rw [step_of_access rfl] at ht ⊢
  exact performAccess_other_host h' ht

/-! Runs: one turn goes at each step. -/

theorem step_turns {s t : State} (h : step s = .next t) : t.turns = s.turns.tail := by
  cases step_effect h with
  | engine _ => simp
  | reset p rest ht | answered k a rest r ht => rw [ht]; rfl
  | drawn k off rest ht => rw [ht]; rfl
  | write k off v rest _ ht he => rw [ht, he.turns_eq]; rfl

theorem run_succ {s t : State} (h : step s = .next t) (k : Nat) : core.run (k + 1) s = core.run k t := by
  have hstep : core.step s = .next t := h
  simp only [Host.Core.run, hstep]

/-- Settles O42: by induction on the pending turns; when none is left, the next step completes the job. -/
theorem everyJobEnds : Obligations.EveryJobEnds := by
  intro s
  induction hts : s.turns generalizing s with
  | nil =>
    obtain ⟨t, ht⟩ := exists_step_eq_next s
    refine ⟨1, t, le_rfl, run_succ ht 0, ?_⟩
    rw [step, hts] at ht
    rw [← Host.Outcome.next.inj ht, engineStep_job]
  | cons x rest ih =>
    obtain ⟨t, ht⟩ := exists_step_eq_next s
    obtain ⟨k, u, hk, hrun, hu⟩ := ih t (by rw [step_turns ht, hts]; rfl)
    exact ⟨k + 1, u, by simpa using hk, (run_succ ht k).trans hrun, hu⟩

/-! R41, R197: the latency of a job. -/

/-- A state as the registers and the job show it: without the model's own fields. -/
def State.registers (s : State) : State := s.withPort [] none 0

/-- The registers and the job but for OVR, which a write under BUSY sets (R200). -/
def State.settled (s : State) : State := (clearOvr s).registers

theorem engineStep_registers (s : State) : engineStep s.registers = (engineStep s).registers :=
  engineStep_withPort [] none 0 s

theorem setVerdict_clearOvr (m : Nat) (s : State) : setVerdict m (clearOvr s) = clearOvr (setVerdict m s) := by
  by_cases hm : m = 0
  · subst hm; rfl
  · simp only [setVerdict, if_neg hm]; rfl

/-- A completion neither reads nor writes OVR (R43). -/
theorem engineStep_clearOvr (s : State) : engineStep (clearOvr s) = clearOvr (engineStep s) :=
  engineStep_comm (f := clearOvr) (fun _ => rfl) (fun _ _ _ _ _ => rfl) setVerdict_clearOvr (fun _ => rfl) s

theorem engineStep_settled (s : State) : engineStep s.settled = (engineStep s).settled := by
  rw [State.settled, engineStep_registers, engineStep_clearOvr, State.settled]

/-- R53, R200: while a job is in flight an access changes nothing but OVR and the model's own fields. -/
theorem settled_of_busy_access {s t : State} {h : Nat} {a : Access} {rest : List Turn} (hj : s.job ≠ none)
    (ht : s.turns = .access h a :: rest) (hs : step s = .next t) : t.settled = s.settled := by
  cases step_effect hs with
  | engine hx => rcases hx with hx | ⟨l, hx⟩ <;> simp [ht] at hx
  | reset p l hx => simp [ht] at hx
  | answered | drawn => rfl
  | write k off v l _ _ he =>
    cases he with
    | nothing | ignored | cleared => rfl
    | genIn _ hidle | dataLo _ hidle | dataHi _ hidle => exact absurd hidle hj
    | refused _ _ hidle | noCode _ hidle | shortFrame _ hidle | installed _ _ hidle => exact absurd hidle hj
    | encStarted _ _ hidle | verStarted _ _ hidle => exact absurd hidle hj

/-- R197: after any accesses, the engine's turn leaves what a completion at once would have left, but for OVR. -/
theorem run_accesses_then_engine {s : State} (l : List (Nat × Access)) (rest : List Turn) (hj : s.job ≠ none)
    (ht : s.turns = l.map (fun p => Turn.access p.1 p.2) ++ .engine :: rest) :
    ∃ t, core.run (l.length + 1) s = .next t ∧ t.turns = rest ∧ t.settled = (engineStep s).settled := by
  induction l generalizing s with
  | nil =>
    have hstep := step_of_engine ht
    refine ⟨_, run_succ hstep 0, engineStep_turns _, ?_⟩
    rw [← engineStep_settled, ← engineStep_settled]
    rfl
  | cons p l ih =>
    obtain ⟨u, hu⟩ := exists_step_eq_next s
    have hset := settled_of_busy_access hj ht hu
    have huj : u.job ≠ none := fun h => hj ((congrArg State.job hset).symm.trans h)
    obtain ⟨t, hrun, hturns, ht'⟩ := ih huj (by rw [step_turns hu, ht]; rfl)
    refine ⟨t, (run_succ hu _).trans hrun, hturns, ht'.trans ?_⟩
    rw [← engineStep_settled, hset, engineStep_settled]

/-- Settles O43: the registers of the end, one by one, as the settled state has them. -/
theorem latencyDoesNotChangeResults : Obligations.LatencyDoesNotChangeResults := by
  intro s j l rest hj ht
  have hbusy : s.job ≠ none := by simp [hj]
  obtain ⟨t, hrun, hturns, h⟩ := run_accesses_then_engine l rest hbusy ht
  refine ⟨t, hrun, (congrArg State.job h).trans (engineStep_job s), hturns, (congrArg State.outLo h :),
    (congrArg State.outHi h :), (congrArg State.outLen h :), (congrArg State.chk h :), (congrArg State.rem h :),
    congrArg (·.status.ok) h, congrArg (·.status.result) h, congrArg (·.status.err) h,
    (congrArg (·.status.codeValid) h).trans (engineStep_status_codeValid s),
    (congrArg State.genIn h).trans (engineStep_genIn s), (congrArg State.gen h).trans (engineStep_gen s),
    (congrArg State.genDeg h).trans (engineStep_genDeg s), (congrArg State.dataLo h).trans (engineStep_dataLo s),
    (congrArg State.dataHi h).trans (engineStep_dataHi s)⟩

end Sys2Proof.Machine

/-! Host programs (30_encoding.md R76): the next move of a program at each operation. -/

namespace Sys2Proof.Machine

/-! An admitted access is the read of R53 or the write of R56. -/

theorem performAccess_write {off : Offset} (ha : off.toNat % 4 = 0) (h : Nat) (v : Word) (s : State) :
    performAccess h { off := off, size := 4, dir := .write v } s = memWrite off v (answer h .written s) := by
  have hadm : Access.admitted { off := off, size := 4, dir := .write v } = true := (admitted_iff _).2 ⟨rfl, ha⟩
  exact if_pos hadm

theorem performAccess_read {off : Offset} (ha : off.toNat % 4 = 0) (h : Nat) (s : State) :
    performAccess h { off := off, size := 4, dir := .read } s =
      .next (answer h (.data (memRead off s).1) (memRead off s).2) := by
  have hadm : Access.admitted { off := off, size := 4, dir := .read } = true := (admitted_iff _).2 ⟨rfl, ha⟩
  exact if_pos hadm

/-! Looking up the values of an operation. -/

theorem HostRun.resolve_wr {x : HostRun} {off : Offset} {a : HostVal} {v : Word} (hv : x.value a = .ok v) :
    x.resolve (.wr off a) = .ok (.wr off v) := by simp only [HostRun.resolve, hv]

theorem HostRun.resolve_wr_unset {x : HostRun} {off : Offset} {a : HostVal} {t : Nat} (ht : x.value a = .error t) :
    x.resolve (.wr off a) = .error t := by simp only [HostRun.resolve, ht]

theorem HostRun.resolve_poll {x : HostRun} {off : Offset} {a c : HostVal} {m v : Word} (hm : x.value a = .ok m)
    (hv : x.value c = .ok v) : x.resolve (.poll off a c) = .ok (.poll off m v) := by
  simp only [HostRun.resolve, hm, hv]

theorem HostRun.resolve_poll_unset {x : HostRun} {off : Offset} {a c : HostVal} {t : Nat}
    (ht : x.value a = .error t ∨ (∃ m, x.value a = .ok m) ∧ x.value c = .error t) :
    x.resolve (.poll off a c) = .error t := by
  rcases ht with ht | ⟨⟨m, hm⟩, ht⟩
  · simp only [HostRun.resolve, ht]
  · simp only [HostRun.resolve, hm, ht]

/-! The next move at each operation. -/

section Own

variable {x : HostRun} {off : Offset} {rest : List HostOp} (h : Nat) (he : x.error = none)
include he

/-- R76: `WR` is the write of R56, and the program goes on. -/
theorem HostRun.own_wr {a : HostVal} {v : Word} {b : State} (ha : off.toNat % 4 = 0) (ht : x.todo = .wr off a :: rest)
    (hv : x.value a = .ok v) (hb : memWrite off v (answer h .written x.block) = .next b) :
    x.own h = { x with todo := rest, block := b } := by
  have hreply : b.reply = some (h, .written) := memWrite_reply hb
  rw [HostRun.own_of_answer h he ht (HostRun.resolve_wr hv) ((performAccess_write ha h v _).trans hb) hreply]
  simp only [HostRun.hear, HostRun.advance, ht, List.tail_cons]

/-- R76: `RD` keeps the value of R53 in its temporary, and the program goes on. -/
theorem HostRun.own_rd {t : Nat} (ha : off.toNat % 4 = 0) (ht : x.todo = .rd off t :: rest) :
    x.own h = (({ x with block := answer h (.data (memRead off x.block).1) (memRead off x.block).2 } : HostRun).setTemp
      t (memRead off x.block).1).advance :=
  HostRun.own_of_answer h he ht rfl (performAccess_read ha h _) rfl

/-- R76: `POLL` reads once, and the program goes on exactly when the value matches. -/
theorem HostRun.own_poll {a c : HostVal} {m v : Word} (ha : off.toNat % 4 = 0) (ht : x.todo = .poll off a c :: rest)
    (hm : x.value a = .ok m) (hv : x.value c = .ok v) :
    x.own h = { x with
      todo := if (memRead off x.block).1 &&& m = v then rest else x.todo
      block := answer h (.data (memRead off x.block).1) (memRead off x.block).2 } := by
  rw [HostRun.own_of_answer h he ht (HostRun.resolve_poll hm hv) (performAccess_read ha h _) rfl]
  simp only [HostRun.hear]
  split
  · simp only [HostRun.advance, ht, List.tail_cons]
  · rfl

/-- R55: at an offset that is no multiple of 4 the host gets a bus error, and the model's host stops (log 25). -/
theorem HostRun.own_unaligned {op : HostOp} {act : HostAct} (ha : off.toNat % 4 ≠ 0) (ht : x.todo = op :: rest)
    (hact : x.resolve op = .ok act) (hoff : act.access.off = off) :
    x.own h = { x with
      error := some (.fault (.busError off 4)), block := answer h (.fault (.busError off 4)) x.block } := by
  subst hoff
  have hsize : act.access.size = 4 := by cases act <;> rfl
  rw [HostRun.own_of_answer h he ht hact (performAccess_of_not_admitted (.inr ha) h _) rfl, hsize]
  rfl

end Own

/-- Settles O59: the command words by definition, the values by their lookup, and each operation by its own move; a program
that was stopped moves no more. -/
theorem hostNotationMeansItsAccesses : Obligations.HostNotationMeansItsAccesses := by
  refine ⟨rfl, fun _ _ => ⟨rfl, rfl⟩,
    fun x v t => ⟨rfl, fun w hw => HostRun.value_temp hw, fun ht => HostRun.value_unset ht⟩,
    fun h x rest off he => ⟨fun ha => ⟨fun a v ht hv => ?_, fun t ht => ?_, fun a c m v ht hm hv => ?_⟩,
      fun ha op act ht hact hoff => ?_, fun a t ht hv => ?_, fun a c t ht hv => ?_⟩⟩
  · obtain ⟨b, hb, -⟩ := memWrite_cases off v (answer h .written x.block)
    exact ⟨b, hb, HostRun.own_wr h he ha ht hv hb⟩
  · rw [HostRun.own_rd h he ha ht]
    exact ⟨congrArg List.tail ht, he, rfl, HostRun.setTemp_temp_self _ _ _, fun u hu => HostRun.setTemp_temp_other _ _ _ _ hu⟩
  · exact HostRun.own_poll h he ha ht hm hv
  · have hown := HostRun.own_unaligned h he ha ht hact hoff
    exact ⟨hown, HostRun.own_of_error h (by rw [hown])⟩
  · have hown := HostRun.own_of_unset h he ht (HostRun.resolve_wr_unset hv)
    exact ⟨hown, HostRun.own_of_error h (by rw [hown])⟩
  · have hown := HostRun.own_of_unset h he ht (HostRun.resolve_poll_unset hv)
    exact ⟨hown, HostRun.own_of_error h (by rw [hown])⟩

end Sys2Proof.Machine

/-! The programs `ENC v, n` and `VER v, n` (30_encoding.md R77) under any latency: where such a program can stand, and what
each move of the host and of the agents around it does to that (R197). -/

namespace Sys2Proof.Machine

/-! What the shared operations make of the registers. -/

theorem regValue_registers (s : State) (r : Reg) : regValue s.registers r = regValue s r := regValue_withPort [] none 0 s r

theorem regValue_eq_of_registers_eq {s t : State} (h : s.registers = t.registers) (r : Reg) :
    regValue s r = regValue t r := by
  rw [← regValue_registers, h, regValue_registers]

theorem engineStep_registers_congr {s t : State} (h : s.registers = t.registers) :
    (engineStep s).registers = (engineStep t).registers := by
  rw [← engineStep_registers, h, engineStep_registers]

/-- R162: the CMD write of a word reads and writes the registers only. -/
theorem issue_registers_congr {s t : State} (w : Word) (h : s.registers = t.registers) :
    (issue s (wordCommand w)).registers = (issue t (wordCommand w)).registers := by
  have hissue (u : State) : issue u.registers (wordCommand w) = (issue u (wordCommand w)).registers :=
    issue_withPort [] none 0 (wordCommand_withPort [] none 0 w) u
  rw [← hissue, h, hissue]

/-- R53, R55: no read changes a register. -/
theorem registers_of_read {h : Nat} {a : Access} {s t : State} (hd : a.dir = .read) (hp : performAccess h a s = .next t) :
    t.registers = s.registers := by
  obtain ⟨t', ht', hc⟩ := performAccess_cases h a s
  obtain rfl := Host.Outcome.next.inj (hp.symm.trans ht')
  rcases hc with ⟨-, rfl⟩ | ⟨-, -, rfl⟩ | ⟨-, v, hw, -⟩
  · rfl
  · rcases memRead_cases a.off s with ⟨-, e⟩ | ⟨r, -, -, e⟩ | ⟨r, -, -, -, e⟩ <;> rw [e] <;> rfl
  · simp [hd] at hw

theorem memRead_status (s : State) : memRead Reg.status.offset s = (statusWord s, s) := by
  simp only [memRead, regAt_offset]
  rfl

/-- R77 `WAIT`: the masked STATUS is 0 exactly when BUSY is. -/
theorem statusWord_and_one_eq_zero_iff (s : State) : statusWord s &&& 0x00000001 = 0x00000000 ↔ s.job = none := by
  have hbusy : (statusWord s).getLsbD 0 = s.job.isSome := statusWord_getLsbD s 0
  have hmask : statusWord s &&& 0x00000001 = (BitVec.ofBool ((statusWord s).getLsbD 0)).setWidth 32 :=
    BitVec.and_one_eq_setWidth_ofBool_getLsbD
  rw [hmask, hbusy]
  cases s.job <;> simp

/-! The program: R77's `LOAD v`, one CMD write, `WAIT`. -/

/-- The program `LOAD v ; WR CMD, w ; WAIT`, of which `ENC` and `VER` are two (R77). -/
def commandOps (v : Pair) (w : Word) : List HostOp := loadOps v ++ [wrConst Reg.cmd.offset w] ++ waitOps

theorem encOps_eq_commandOps (v : Pair) (n : Nat) : encOps v n = commandOps v (encode (.encode n)) := rfl

theorem verOps_eq_commandOps (v : Pair) (n : Nat) : verOps v n = commandOps v (encode (.verify n)) := rfl

/-- The first half of `LOAD v`. -/
def loadLow (v : Pair) (s : State) : State := { s with dataLo := v.extractLsb' 0 32 }

/-- After `LOAD v`. -/
def load (v : Pair) (s : State) : State := { s with dataLo := v.extractLsb' 0 32, dataHi := v.extractLsb' 32 32 }

/-- After the CMD write. -/
def issued (v : Pair) (w : Word) (s : State) : State := issue (load v s) (wordCommand w)

/-- Where the program can stand on a block that was s: how far it is, and the registers there. The engine may have taken
its step before the poll sees it. -/
inductive CommandRun (v : Pair) (w : Word) (s : State) : Nat → HostRun → Prop
  | start {b : State} (hb : b.registers = s.registers) :
      CommandRun v w s 0 { todo := commandOps v w, temps := [], error := none, block := b }
  | lowLoaded {b : State} (hb : b.registers = (loadLow v s).registers) :
      CommandRun v w s 1 { todo := (commandOps v w).drop 1, temps := [], error := none, block := b }
  | loaded {b : State} (hb : b.registers = (load v s).registers) :
      CommandRun v w s 2 { todo := (commandOps v w).drop 2, temps := [], error := none, block := b }
  | waiting {b : State} (hb : b.registers = (issued v w s).registers) :
      CommandRun v w s 3 { todo := waitOps, temps := [], error := none, block := b }
  | completed {b : State} (hb : b.registers = (engineStep (issued v w s)).registers) :
      CommandRun v w s 4 { todo := waitOps, temps := [], error := none, block := b }
  | ended {b : State} (hb : b.registers = (engineStep (issued v w s)).registers) :
      CommandRun v w s 5 { todo := [], temps := [], error := none, block := b }

theorem memWrite_dataLo_idle {s : State} (hj : s.job = none) (v : Word) :
    memWrite Reg.dataLo.offset v s = .next { s with dataLo := v } := by
  simp only [memWrite, regAt_offset, guardedWrite_idle hj]

theorem memWrite_dataHi_idle {s : State} (hj : s.job = none) (v : Word) :
    memWrite Reg.dataHi.offset v s = .next { s with dataHi := v } := by
  simp only [memWrite, regAt_offset, guardedWrite_idle hj]

/-- R77 `WAIT`: the poll reads STATUS once, and the program goes on exactly when no job is in flight. -/
theorem own_waitOps (h : Nat) (temps : List (Nat × Word)) (b : State) :
    ({ todo := waitOps, temps := temps, error := none, block := b } : HostRun).own h =
      { todo := if b.job = none then [] else waitOps, temps := temps, error := none,
        block := answer h (.data (statusWord b)) b } := by
  have hown := HostRun.own_poll (x := { todo := waitOps, temps := temps, error := none, block := b })
    (off := Reg.status.offset) h rfl (by decide) rfl rfl rfl
  simp only [memRead_status, statusWord_and_one_eq_zero_iff] at hown
  exact hown

namespace CommandRun

variable {v : Pair} {w : Word} {s : State} {k : Nat} {x : HostRun}

theorem error_eq_none (hx : CommandRun v w s k x) : x.error = none := by cases hx <;> rfl

theorem le_five (hx : CommandRun v w s k x) : k ≤ 5 := by cases hx <;> decide

/-- Before the CMD write no job is in flight. -/
theorem job_eq_none (hs : s.job = none) (hx : CommandRun v w s k x) (hk : k ≤ 2) : x.block.job = none := by
  cases hx with
  | start hb | lowLoaded hb | loaded hb => exact (congrArg State.job hb).trans hs
  | waiting | completed | ended => omega

/-- The program's place is unchanged where the registers are. -/
theorem of_registers_eq (hx : CommandRun v w s k x) {b : State} (hb : b.registers = x.block.registers) :
    CommandRun v w s k { x with block := b } := by
  cases hx with
  | start h => exact .start (hb.trans h)
  | lowLoaded h => exact .lowLoaded (hb.trans h)
  | loaded h => exact .loaded (hb.trans h)
  | waiting h => exact .waiting (hb.trans h)
  | completed h => exact .completed (hb.trans h)
  | ended h => exact .ended (hb.trans h)

/-- The program's own move: the next operation, but that a poll stays while the job is in flight. -/
theorem own (hs : s.job = none) (h : Nat) (hx : CommandRun v w s k x) :
    ∃ k', CommandRun v w s k' (x.own h) ∧ k ≤ k' ∧ (k ≠ 3 → k < 5 → k < k') := by
  cases hx with
  | @start b hb =>
    have hj : (answer h .written b).job = none := (congrArg State.job hb).trans hs
    rw [HostRun.own_wr h rfl (by decide) rfl rfl (memWrite_dataLo_idle hj _)]
    exact ⟨1, .lowLoaded (congrArg (loadLow v) hb), by omega⟩
  | @lowLoaded b hb =>
    have hj : (answer h .written b).job = none := (congrArg State.job hb).trans hs
    rw [HostRun.own_wr h rfl (by decide) rfl rfl (memWrite_dataHi_idle hj _)]
    exact ⟨2, .loaded (congrArg (fun u : State => { u with dataHi := v.extractLsb' 32 32 }) hb), by omega⟩
  | @loaded b hb =>
    have hw : memWrite Reg.cmd.offset w (answer h .written b) = .next (issue (answer h .written b) (wordCommand w)) := by
      rw [memWrite_cmd, commandWrite_eq_issue]
    rw [HostRun.own_wr h rfl (by decide) rfl rfl hw]
    exact ⟨3, .waiting (issue_registers_congr w hb), by omega⟩
  | @waiting b hb =>
    rw [own_waitOps]
    by_cases hj : b.job = none
    · have hdone : engineStep (issued v w s) = issued v w s := engineStep_none ((congrArg State.job hb).symm.trans hj)
      rw [if_pos hj]
      exact ⟨5, .ended (by rw [hdone]; exact hb), by omega⟩
    · rw [if_neg hj]
      exact ⟨3, .waiting hb, by omega⟩
  | @completed b hb =>
    have hj : b.job = none := (congrArg State.job hb).trans (engineStep_job _)
    rw [own_waitOps, if_pos hj]
    exact ⟨5, .ended hb, by omega⟩
  | ended hb =>
    rw [HostRun.own_of_ended h rfl]
    exact ⟨5, .ended hb, by omega⟩

/-- The engine's turn: nothing before the CMD write, the completion after it, and nothing more after that. -/
theorem engine (hs : s.job = none) (h : Nat) (hx : CommandRun v w s k x) :
    ∃ k', CommandRun v w s k' (x.move h (.other .engine)) ∧ k ≤ k' ∧ (3 ≤ k → 4 ≤ k') := by
  rw [HostRun.move_engine]
  have hkeep (hj : x.block.job = none) : CommandRun v w s k { x with block := engineStep x.block } :=
    hx.of_registers_eq (by rw [engineStep_none hj])
  by_cases hk : k ≤ 2
  · exact ⟨k, hkeep (hx.job_eq_none hs hk), by omega⟩
  · cases hx with
    | start | lowLoaded | loaded => omega
    | waiting hb => exact ⟨4, .completed (engineStep_registers_congr hb), by omega⟩
    | completed hb => exact ⟨4, hkeep ((congrArg State.job hb).trans (engineStep_job _)), by omega⟩
    | ended hb => exact ⟨5, hkeep ((congrArg State.job hb).trans (engineStep_job _)), by omega⟩

/-- A read of another agent. -/
theorem read (h : Nat) (hx : CommandRun v w s k x) {j : Nat} {a : Access} (hd : a.dir = .read) :
    CommandRun v w s k (x.move h (.other (.access j a))) := by
  obtain ⟨b, hb, -⟩ := performAccess_cases j a x.block
  have hmove : x.move h (.other (.access j a)) = { x with block := b } := by
    simp only [HostRun.move, takeTurn, hb, stateAfter]
  rw [hmove]
  exact hx.of_registers_eq (registers_of_read hd hb)

/-- Any list of moves of the host, the engine and readers. -/
theorem play (hs : s.job = none) (h : Nat) {moves : List Move}
    (hm : ∀ m ∈ moves, m = .own ∨ m = .other .engine ∨ ∃ j a, m = .other (.access j a) ∧ a.dir = .read)
    (hx : CommandRun v w s k x) : ∃ k', CommandRun v w s k' (x.play h moves) := by
  induction moves generalizing k x with
  | nil => exact ⟨k, hx⟩
  | cons m l ih =>
    obtain ⟨hm, hl⟩ := List.forall_mem_cons.1 hm
    rw [HostRun.play_cons]
    rcases hm with rfl | rfl | ⟨j, a, rfl, hd⟩
    · obtain ⟨k', hx', -⟩ := hx.own hs h
      exact ih hl hx'
    · obtain ⟨k', hx', -⟩ := hx.engine hs h
      exact ih hl hx'
    · exact ih hl (hx.read h hd)

/-- From wherever the program stands: three operations, the completion, and the poll that sees it. -/
theorem play_to_end (hs : s.job = none) (h : Nat) (hx : CommandRun v w s k x) :
    CommandRun v w s 5 (x.play h [.own, .own, .own, .other .engine, .own]) := by
  obtain ⟨k1, h1, hle1, hlt1⟩ := hx.own hs h
  obtain ⟨k2, h2, hle2, hlt2⟩ := h1.own hs h
  obtain ⟨k3, h3, hle3, hlt3⟩ := h2.own hs h
  obtain ⟨k4, h4, -, hlt4⟩ := h3.engine hs h
  obtain ⟨k5, h5, hle5, hlt5⟩ := h4.own hs h
  have hk := hx.le_five
  have hk4 := h4.le_five
  have hk5 := h5.le_five
  obtain rfl : k5 = 5 := by omega
  exact h5

/-- The end of the program is the last place, with the registers of the completion. -/
theorem registers_of_ended (hx : CommandRun v w s k x) (he : x.ended = true) :
    x.block.registers = (engineStep (issued v w s)).registers := by
  cases hx with
  | ended hb => exact hb
  | start | lowLoaded | loaded | waiting | completed => exact absurd he (by simp [HostRun.ended, commandOps, loadOps, waitOps])

end CommandRun

/-- R77 under the schedule of log 16: the program ends with the registers of the completion, and sets no temporary. -/
theorem runOps_commandOps {s : State} (hs : s.job = none) (h : Nat) (v : Pair) (w : Word) :
    ∃ b, runOps h (commandOps v w) s = { todo := [], temps := [], error := none, block := b } ∧
      b.registers = (engineStep (issued v w s)).registers := by
  have hstart : CommandRun v w s 0 (HostRun.start (commandOps v w) s) := .start rfl
  obtain ⟨k, hown, -⟩ := hstart.own hs h
  have hrun : CommandRun v w s 5 (runOps h (commandOps v w) s) := hown.play_to_end hs h
  generalize runOps h (commandOps v w) s = y at hrun
  cases hrun with
  | ended hb => exact ⟨_, rfl, hb⟩

/-- Settles O60: every move keeps the program at one of its places, from each of which it can end, and at the end the
registers are those of the completion. -/
theorem hostProgramsDoNotDependOnLatency : Obligations.HostProgramsDoNotDependOnLatency := by
  intro s h v n ops moves hs hops hm
  obtain ⟨w, rfl⟩ : ∃ w, ops = commandOps v w := hops.elim (fun e => ⟨_, e⟩) fun e => ⟨_, e⟩
  have hstart : CommandRun v w s 0 (HostRun.start (commandOps v w) s) := .start rfl
  obtain ⟨k, hx⟩ := hstart.play hs h hm
  refine ⟨hx.error_eq_none, ⟨[.own, .own, .own, .other .engine, .own], by simp, ?_⟩, fun he => ?_⟩
  · have hend := hx.play_to_end hs h
    generalize ((HostRun.start (commandOps v w) s).play h moves).play h _ = y at hend
    cases hend with
    | ended => rfl
  · have hregs := hx.registers_of_ended he
    obtain ⟨b, hrun, hb⟩ := runOps_commandOps hs h v w
    refine ⟨(congrArg State.job hregs).trans (engineStep_job _), fun r => ?_⟩
    rw [hrun]
    exact regValue_eq_of_registers_eq (hregs.trans hb.symm) r

end Sys2Proof.Machine

/-! The sender and the receiver (60_exceptions.md R180 to R184): what one command program makes of a configured block, the
token a receiver answers, the attempts of a sender, and whole sessions. -/

namespace Sys2Proof.Machine

/-! A command program on an idle block. -/

/-- R30, R77: `LOAD v` makes v the operand pair. -/
theorem dataPair_load (v : Pair) (s : State) : dataPair (load v s) = v := by
  simp only [dataPair, load]
  rw [BitVec.extractLsb'_append_extractLsb'_eq_extractLsb' (by rfl)]
  exact BitVec.extractLsb'_eq_self

theorem operand_load_toNat (v : Pair) (s : State) (n : Nat) : (operand (load v s) n).toNat = v.toNat % 2 ^ n := by
  rw [operand_toNat, dataPair_load]

/-- The CMD write of the word of a command is the command. -/
theorem issued_encode {i : Instr} (hi : WellFormed i) (v : Pair) (s : State) :
    issued v (encode i) s = issue (load v s) (instrCommand i) := by
  rw [issued, wordCommand_of_decode (decode_encode hi)]

theorem issued_of_exec {i : Instr} {v : Pair} {s t : State} (hi : WellFormed i) (h : exec i (load v s) = .next t) :
    issued v (encode i) s = t := by
  rw [issued_encode hi]
  exact Host.Outcome.next.inj ((exec_eq_issue i _).symm.trans h)

/-- R36: no command but SETGEN changes the generator. -/
theorem generatorFields_issue {i : Instr} (hi : i ≠ .setgen) (s : State) :
    generatorFields (issue s (instrCommand i)) = generatorFields s := by
  by_cases hj : s.job = none
  · rw [issue_idle hj]
    rcases instrCommand_cases i s with ⟨c, e, ht⟩ | ⟨hset, -⟩ | ⟨-, op, n, ht⟩
    · rw [ht]; rfl
    · exact absurd hset hi
    · rw [ht]; rfl
  · rw [issue_busy hj]; rfl

@[simp] theorem generatorFields_engineStep (s : State) : generatorFields (engineStep s) = generatorFields s := by
  simp [generatorFields]

/-- R72: a length below 128 has command words. -/
theorem lenFits_of_lt {n : Nat} (h : n < 128) : lenFits n = true := by simp [lenFits, h]

/-- An idle block with the generator g of degree r. -/
def Configured (g : Word) (r : BitVec 5) (s : State) : Prop := s.job = none ∧ generatorFields s = (true, g, r)

theorem configured_iff {g : Word} {r : BitVec 5} {s : State} :
    Configured g r s ↔ s.job = none ∧ s.status.codeValid = true ∧ s.gen = g ∧ s.genDeg = r := by
  simp [Configured, generatorFields]

theorem Configured.of_registers_eq {g : Word} {r : BitVec 5} {s t : State} (hs : Configured g r s)
    (h : t.registers = s.registers) : Configured g r t :=
  ⟨(congrArg State.job h).trans hs.1, (congrArg generatorFields h).trans hs.2⟩

theorem Configured.job_eq_none {g : Word} {r : BitVec 5} {s : State} (hs : Configured g r s) : s.job = none := hs.1

/-- A command program, but one of SETGEN, leaves the block configured as it was. -/
theorem Configured.runOps_commandOps {g : Word} {r : BitVec 5} {s : State} {i : Instr} (hs : Configured g r s)
    (hwf : WellFormed i) (hi : i ≠ .setgen) (h : Nat) (v : Pair) :
    Configured g r (runOps h (commandOps v (encode i)) s).block := by
  obtain ⟨b, hrun, hb⟩ := Machine.runOps_commandOps hs.job_eq_none h v (encode i)
  have hdone : Configured g r (engineStep (issued v (encode i) s)) := by
    refine ⟨engineStep_job _, ?_⟩
    rw [generatorFields_engineStep, issued_encode hwf, generatorFields_issue hi]
    exact hs.2
  rw [hrun]
  exact hdone.of_registers_eq hb

/-! The receiver (R182). -/

/-- The length a receiver issues its VERIFY with has a command word (log 16). -/
theorem wellFormed_verify_min (l : Nat) : WellFormed (.verify (min l 127)) :=
  lenFits_of_lt (by omega)

/-- R182: a receiver on an idle block answers with the RESULT its VERIFY ends with. -/
theorem receive_token {s t : State} {str : List Bool} (hs : s.job = none) (h : Nat)
    (ht : exec (.verify (min str.length 127)) (load (BitVec.ofNat 64 (val str)) s) = .next t) :
    (receive h str s).2 = some (tokenOf (engineStep t).status.result) := by
  obtain ⟨b, hrun, hb⟩ := runOps_commandOps hs h (BitVec.ofNat 64 (val str)) (encode (.verify (min str.length 127)))
  have hresult : b.status.result = (engineStep t).status.result := by
    rw [issued_of_exec (wellFormed_verify_min _) ht] at hb
    exact congrArg (·.status.result) hb
  rw [receive, verOps_eq_commandOps, hrun]
  exact (if_pos ⟨hs, rfl⟩).trans (congrArg (fun c => some (tokenOf c)) hresult)

/-- R181: a string of at most 64 characters is its own operand. -/
theorem operand_load_val {str : List Bool} (h : str.length ≤ 64) (s : State) :
    (operand (load (BitVec.ofNat 64 (val str)) s) str.length).toNat = val str := by
  have hval := val_lt str
  have h64 : val str < 2 ^ 64 := hval.trans_le (Nat.pow_le_pow_right two_pos h)
  rw [operand_load_toNat, BitVec.toNat_ofNat, Nat.mod_eq_of_lt h64, Nat.mod_eq_of_lt hval]

section Receiver

variable {s : State} {str : List Bool} (h : Nat) (hs : s.job = none)
include hs

/-- R141, R182: a string of more than 64 characters. -/
theorem receive_tooLong (hlen : 64 < str.length) : (receive h str s).2 = some .dataError := by
  have hn : 64 < min str.length 127 := by omega
  rw [receive_token hs h (exec_verify_lenInvalid hn hs), engineStep_none]
  · rfl
  · exact hs

variable (hlen : str.length ≤ 64)
include hlen

/-- R142, R182: no generator. -/
theorem receive_noCode (hc : s.status.codeValid = false) : (receive h str s).2 = some .codeError := by
  have hn : min str.length 127 ≤ 64 := by omega
  rw [receive_token hs h (exec_verify_noCode hs hn hc), engineStep_none]
  · rfl
  · exact hs

variable (hc : s.status.codeValid = true)
include hc

/-- R143, R182: a string shorter than the degree. -/
theorem receive_short (hr : str.length < s.genDeg.toNat) : (receive h str s).2 = some .dataError := by
  have hn : min str.length 127 ≤ 64 := by omega
  have hshort : min str.length 127 < s.genDeg.toNat := by omega
  rw [receive_token hs h (exec_verify_shortFrame hs hn hc hshort), engineStep_none]
  · rfl
  · exact hs

/-- R146, R182: the verdict on the string's remainder. -/
theorem receive_verified (hr : s.genDeg.toNat ≤ str.length) : (receive h str s).2 =
    if pmod (val str) str.length s.gen.toNat s.genDeg.toNat = 0 then some .dataSuccess else some .dataError := by
  have hn : min str.length 127 = str.length := by omega
  have hstart := exec_verify_starts (s := load (BitVec.ofNat 64 (val str)) s) hs hlen hc hr
  have hjob := startJob_ver_job str.length (load (BitVec.ofNat 64 (val str)) s)
  have hrem : (verifyJob str.length (load (BitVec.ofNat 64 (val str)) s)).remainder =
      pmod (val str) str.length s.gen.toNat s.genDeg.toNat := by
    rw [Job.remainder, verifyJob, operand_load_val hlen]
    rfl
  have htoken : (receive h str s).2 = some (tokenOf (engineStep (startJob .ver str.length
      (issueClear (load (BitVec.ofNat 64 (val str)) s)))).status.result) :=
    receive_token hs h (by rw [hn]; exact hstart)
  rw [htoken, ← hrem]
  split_ifs with hm
  · rw [engineStep_ver_status_of_remainder_eq_zero hjob rfl hm]; rfl
  · rw [engineStep_ver_status_of_remainder_ne_zero hjob rfl hm]; rfl

end Receiver

/-- Settles O57: the four outcomes of the receiver's VERIFY. -/
theorem receiverAnswersTheVerdict : Obligations.ReceiverAnswersTheVerdict := fun _ h _ hs _ =>
  ⟨receive_tooLong h hs, receive_noCode h hs, receive_short h hs, receive_verified h hs⟩

/-- The receiver's VERIFY leaves the block configured. -/
theorem Configured.receive {g : Word} {r : BitVec 5} {s : State} (hs : Configured g r s) (h : Nat) (str : List Bool) :
    Configured g r (receive h str s).1 :=
  hs.runOps_commandOps (wellFormed_verify_min _) nofun h _

/-- R141, R143, R146: the strings a generator of degree r rejects. -/
def Rejected (G r : Nat) (str : List Bool) : Prop :=
  64 < str.length ∨ str.length < r ∨ pmod (val str) str.length G r ≠ 0

theorem receive_rejected {g : Word} {r : BitVec 5} {s : State} {str : List Bool} (hs : Configured g r s) (h : Nat)
    (hstr : Rejected g.toNat r.toNat str) : (receive h str s).2 = some .dataError := by
  obtain ⟨hj, hc, rfl, rfl⟩ := configured_iff.1 hs
  by_cases hlen : str.length ≤ 64
  · by_cases hr : str.length < s.genDeg.toNat
    · exact receive_short h hj hlen hc hr
    · have hm : pmod (val str) str.length s.gen.toNat s.genDeg.toNat ≠ 0 := by
        rcases hstr with h64 | hlt | hm
        · omega
        · exact absurd hlt hr
        · exact hm
      rw [receive_verified h hj hlen hc (Nat.not_lt.1 hr), if_neg hm]
  · exact receive_tooLong h hj (Nat.not_le.1 hlen)

/-! The frame of a payload (R125, R181). -/

/-- The string a sender sends for the payload (P, n): the payload followed by its checksum. -/
def frameString (P n G r : Nat) : List Bool := bits P n ++ bits (checksum P n G r) r

theorem frameString_eq_bits {G r : Nat} (hG : ValidGenerator G r) (P n : Nat) :
    frameString P n G r = bits (frame P n G r) (n + r) := (bits_concatPair P n (checksum_lt hG P n)).symm

/-- R128, R182: a receiver with the generator accepts the frame. -/
theorem receive_frameString {g : Word} {r : BitVec 5} {s : State} {P n : Nat} (hs : Configured g r s) (h : Nat)
    (hG : ValidGenerator g.toNat r.toNat) (h32 : n ≤ 32) (hP : P < 2 ^ n) :
    (receive h (frameString P n g.toNat r.toNat) s).2 = some .dataSuccess := by
  obtain ⟨hj, hc, rfl, rfl⟩ := configured_iff.1 hs
  have hlen : (frameString P n s.gen.toNat s.genDeg.toNat).length = n + s.genDeg.toNat := by
    rw [frameString_eq_bits hG, length_bits]
  have hval : val (frameString P n s.gen.toNat s.genDeg.toNat) = frame P n s.gen.toNat s.genDeg.toNat := by
    rw [frameString_eq_bits hG, val_bits_of_lt (frame_lt hG hP)]
  have h64 : (frameString P n s.gen.toNat s.genDeg.toNat).length ≤ 64 := by omega
  have hr : s.genDeg.toNat ≤ (frameString P n s.gen.toNat s.genDeg.toNat).length := by omega
  rw [receive_verified h hj h64 hc hr, hlen, hval, if_pos (pmod_frame hG P n)]

/-! The sender's ENCODE (R181). -/

section Sender

variable {g : Word} {r : BitVec 5} {P n : Nat} (hG : ValidGenerator g.toNat r.toNat) (h1 : 1 ≤ n) (h32 : n ≤ 32)
  (hP : P < 2 ^ n) (h : Nat)
include hG h1 h32 hP

/-- R124, R181: the program `ENC` on a configured block ends, with no error and with the payload's frame. -/
theorem runOps_encOps {s : State} (hs : Configured g r s) :
    ∃ b, runOps h (encOps (BitVec.ofNat 64 P) n) s = { todo := [], temps := [], error := none, block := b } ∧
      b.status.err = .noError ∧ outString b = frameString P n g.toNat r.toNat := by
  obtain ⟨hj, hc, rfl, rfl⟩ := configured_iff.1 hs
  have hwf : WellFormed (.encode n) := lenFits_of_lt (by omega)
  have h64 : P < 2 ^ 64 := hP.trans_le (Nat.pow_le_pow_right two_pos (by omega))
  have hoperand : (operand (load (BitVec.ofNat 64 P) s) n).toNat = P := by
    rw [operand_load_toNat, BitVec.toNat_ofNat, Nat.mod_eq_of_lt h64, Nat.mod_eq_of_lt hP]
  obtain ⟨t, ht, -, -, -, hpair, hlen, -⟩ := exec_encode_frame (s := load (BitVec.ofNat 64 P) s) hj hc hG h1 h32
  obtain rfl := Host.Outcome.next.inj ((exec_encode_starts (s := load (BitVec.ofNat 64 P) s) hj h1 h32 hc).symm.trans ht)
  obtain ⟨b, hrun, hb⟩ := runOps_commandOps hj h (BitVec.ofNat 64 P) (encode (.encode n))
  rw [issued_of_exec hwf ht] at hb
  refine ⟨b, hrun, (congrArg (·.status.err) hb).trans (engineStep_status_err _), ?_⟩
  have hstring : outString b = outString (engineStep (startJob .enc n (issueClear (load (BitVec.ofNat 64 P) s)))) :=
    (congrArg outString hb :)
  rw [hstring, outString, hpair, hlen, hoperand, frameString_eq_bits hG]
  rfl

/-- R181, R183: an attempt of a sender on a configured block sends the frame and leaves the block configured. -/
theorem sendFrame_eq {x : Sending} (hx : Configured g r x.blocks.sender) :
    ∃ t, Configured g r t ∧ sendFrame h P n x = { x with
      phase := .awaitingResult
      sent := x.sent ++ [frameString P n g.toNat r.toNat]
      blocks := x.blocks.setSender t } := by
  obtain ⟨b, hrun, herr, hout⟩ := runOps_encOps hG h1 h32 hP h hx
  have hwf : WellFormed (.encode n) := lenFits_of_lt (by omega)
  have hb : Configured g r b := by
    have hconf := hx.runOps_commandOps hwf nofun h (BitVec.ofNat 64 P)
    rw [← encOps_eq_commandOps, hrun] at hconf
    exact hconf
  have hdone : encodeCompleted n x.blocks.sender (runOps h (encOps (BitVec.ofNat 64 P) n) x.blocks.sender) = true := by
    rw [encodeCompleted, hrun, busy_eq_false.2 hx.job_eq_none]
    simp [hwf, herr, HostRun.ended]
  refine ⟨b, hb, ?_⟩
  simp only [sendFrame, hdone, if_true]
  rw [hrun, hout]

end Sender

/-! The loop of R183, by the response of the channel. -/

/-- R183: the result a response ends the sending with; DATA_ERROR does not end it. -/
def endOf : ChannelResponse → Option SendResult
  | .token .dataSuccess => some .success
  | .token .codeError => some .codeError
  | .channelError => some .connectivityFailure
  | .token .dataError => none

section Loop

variable {m h h' P n : Nat} {d : Delivery} {rest : List Delivery} {x y : Sending} {b : Blocks}
  (hy : sendFrame h P n x = y) (hstop : y.stopped = false)
include hy hstop

theorem sendLoop_unanswered (hc : channelSend h' (y.sent.getLastD []) d y.blocks = (b, none)) :
    sendLoop m h h' P n (d :: rest) x = { y with blocks := b, stopped := true } := by
  subst hy
  simp only [sendLoop, hstop, hc, Bool.false_eq_true, if_false]

theorem sendLoop_ended {resp : ChannelResponse} {res : SendResult}
    (hc : channelSend h' (y.sent.getLastD []) d y.blocks = (b, some resp)) (hres : endOf resp = some res) :
    sendLoop m h h' P n (d :: rest) x = endSending res { y with blocks := b } := by
  subst hy
  simp only [sendLoop, hstop, hc, Bool.false_eq_true, if_false]
  cases resp with
  | channelError => cases hres; rfl
  | token t => cases t <;> cases hres <;> rfl

theorem sendLoop_retried (hc : channelSend h' (y.sent.getLastD []) d y.blocks = (b, some (.token .dataError)))
    (hm : y.retry + 1 < m) : sendLoop m h h' P n (d :: rest) x =
      sendLoop m h h' P n rest { y with blocks := b, phase := .idle, retry := y.retry + 1 } := by
  subst hy
  simp only [sendLoop, hstop, hc, hm, Bool.false_eq_true, if_false, if_true]

theorem sendLoop_exhausted (hc : channelSend h' (y.sent.getLastD []) d y.blocks = (b, some (.token .dataError)))
    (hm : ¬ y.retry + 1 < m) : sendLoop m h h' P n (d :: rest) x = endSending .exhausted { y with blocks := b } := by
  subst hy
  simp only [sendLoop, hstop, hc, hm, Bool.false_eq_true, if_false]

end Loop

end Sys2Proof.Machine

/-! The attempts of a sender (R183, R184) and sessions of a sender and a receiver that configure their blocks (R180). -/

namespace Sys2Proof.Machine

/-! How far a sending is. -/

/-- A sending under way on a configured block: `retry` DATA_ERRORs so far, and `count` frames sent, each F. -/
structure Sending.UnderWay (g : Word) (r : BitVec 5) (F : List Bool) (retry count : Nat) (x : Sending) : Prop where
  sender : Configured g r x.blocks.sender
  stopped : x.stopped = false
  result : x.result = none
  retry : x.retry = retry
  sent : x.sent = List.replicate count F

theorem Sending.underWay_start {g : Word} {r : BitVec 5} {b : Blocks} (hb : Configured g r b.sender) (F : List Bool) :
    (Sending.start b).UnderWay g r F 0 0 :=
  ⟨hb, rfl, rfl, rfl, rfl⟩

/-- R180, R182: whatever the channel does, the sender's block stays configured, also where the receiver uses it too. -/
theorem channelSend_sender {g : Word} {r : BitVec 5} {b : Blocks} (hb : Configured g r b.sender) (h' : Nat)
    (F : List Bool) (d : Delivery) : Configured g r (channelSend h' F d b).1.sender := by
  have hdeliver (str : List Bool) : Configured g r (deliver h' str b).1.sender := by
    cases b with
    | shared s => exact Configured.receive hb h' str
    | separate s u => exact hb
  cases d with
  | answers resp => exact hb
  | intact => exact hdeliver F
  | altered str => exact hdeliver str

theorem eq_dataError_of_endOf_eq_none {resp : ChannelResponse} (h : endOf resp = none) : resp = .token .dataError := by
  cases resp with
  | channelError => cases h
  | token t => cases t <;> cases h; rfl

section Attempts

variable {g : Word} {r : BitVec 5} {P n : Nat} (hG : ValidGenerator g.toNat r.toNat) (h1 : 1 ≤ n) (h32 : n ≤ 32)
  (hP : P < 2 ^ n) (h h' : Nat)

include hG h1 h32 hP in
/-- R183: an attempt sends the payload's frame once more. -/
theorem Sending.UnderWay.sendFrame {x : Sending} {k m : Nat}
    (hx : x.UnderWay g r (frameString P n g.toNat r.toNat) k m) :
    (sendFrame h P n x).UnderWay g r (frameString P n g.toNat r.toNat) k (m + 1) := by
  obtain ⟨hsender, hstop, hresult, hretry, hsent⟩ := hx
  obtain ⟨t, ht, hy⟩ := sendFrame_eq hG h1 h32 hP h hsender
  rw [hy]
  refine ⟨?_, hstop, hresult, hretry, ?_⟩
  · rw [Blocks.sender_setSender]
    exact ht
  · rw [hsent, List.replicate_succ']

variable {x : Sending} {k : Nat} (hx : x.UnderWay g r (frameString P n g.toNat r.toNat) k k)
include hG h1 h32 hP hx

/-- R183, R184: from the attempt after k < 3 DATA_ERRORs on, whatever the channel does: at most 3 frames in all, each the
payload's, and RetryState 0 and IDLE at every end. -/
theorem sendLoop_bounded (hk : k < 3) (ds : List Delivery) :
    (∃ m ≤ 3, (sendLoop 3 h h' P n ds x).sent = List.replicate m (frameString P n g.toNat r.toNat)) ∧
    ((sendLoop 3 h h' P n ds x).result ≠ none →
      (sendLoop 3 h h' P n ds x).retry = 0 ∧ (sendLoop 3 h h' P n ds x).phase = .idle) := by
  induction ds generalizing x k with
  | nil =>
    have hy := hx.sendFrame hG h1 h32 hP h
    exact ⟨⟨k + 1, hk, hy.sent⟩, fun hne => absurd hy.result hne⟩
  | cons d rest ih =>
    have hy := hx.sendFrame hG h1 h32 hP h
    have hsender := channelSend_sender hy.sender h' ((sendFrame h P n x).sent.getLastD []) d
    rcases hc : channelSend h' ((sendFrame h P n x).sent.getLastD []) d (sendFrame h P n x).blocks with ⟨b, resp⟩
    rw [hc] at hsender
    cases resp with
    | none =>
      rw [sendLoop_unanswered rfl hy.stopped hc]
      exact ⟨⟨k + 1, hk, hy.sent⟩, fun hne => absurd hy.result hne⟩
    | some resp =>
      cases hend : endOf resp with
      | some res =>
        rw [sendLoop_ended rfl hy.stopped hc hend]
        exact ⟨⟨k + 1, hk, hy.sent⟩, fun _ => ⟨rfl, rfl⟩⟩
      | none =>
        obtain rfl := eq_dataError_of_endOf_eq_none hend
        by_cases hm : (sendFrame h P n x).retry + 1 < 3
        · rw [sendLoop_retried rfl hy.stopped hc hm]
          rw [hy.retry] at hm
          exact ih ⟨hsender, hy.stopped, hy.result, congrArg (· + 1) hy.retry, hy.sent⟩ hm
        · rw [sendLoop_exhausted rfl hy.stopped hc hm]
          exact ⟨⟨k + 1, hk, hy.sent⟩, fun _ => ⟨rfl, rfl⟩⟩

variable {d : Delivery} {b : Blocks} (rest : List Delivery)

/-- R183: a response that ends the sending. -/
theorem sendLoop_last {resp : ChannelResponse} {res : SendResult}
    (hc : channelSend h' ((sendFrame h P n x).sent.getLastD []) d (sendFrame h P n x).blocks = (b, some resp))
    (hres : endOf resp = some res) :
    (sendLoop 3 h h' P n (d :: rest) x).result = some res ∧
    (sendLoop 3 h h' P n (d :: rest) x).sent = List.replicate (k + 1) (frameString P n g.toNat r.toNat) := by
  have hy := hx.sendFrame hG h1 h32 hP h
  rw [sendLoop_ended rfl hy.stopped hc hres]
  exact ⟨rfl, hy.sent⟩

variable (hc : channelSend h' ((sendFrame h P n x).sent.getLastD []) d (sendFrame h P n x).blocks =
  (b, some (.token .dataError)))
include hc

/-- R183: a DATA_ERROR that is not the last one: the next attempt. -/
theorem sendLoop_next (hk : k + 1 < 3) :
    ∃ y : Sending, y.UnderWay g r (frameString P n g.toNat r.toNat) (k + 1) (k + 1) ∧ y.blocks = b ∧
      sendLoop 3 h h' P n (d :: rest) x = sendLoop 3 h h' P n rest y := by
  have hy := hx.sendFrame hG h1 h32 hP h
  have hsender := channelSend_sender hy.sender h' ((sendFrame h P n x).sent.getLastD []) d
  rw [hc] at hsender
  refine ⟨_, ?_, ?_, sendLoop_retried rfl hy.stopped hc (by rw [hy.retry]; exact hk)⟩
  · exact ⟨hsender, hy.stopped, hy.result, congrArg (· + 1) hy.retry, hy.sent⟩
  · rfl

/-- R183: the last DATA_ERROR. -/
theorem sendLoop_exhausts (hk : ¬ k + 1 < 3) :
    (sendLoop 3 h h' P n (d :: rest) x).result = some .exhausted ∧
    (sendLoop 3 h h' P n (d :: rest) x).sent = List.replicate (k + 1) (frameString P n g.toNat r.toNat) := by
  have hy := hx.sendFrame hG h1 h32 hP h
  rw [sendLoop_exhausted rfl hy.stopped hc (by rw [hy.retry]; exact hk)]
  exact ⟨rfl, hy.sent⟩

end Attempts

theorem length_eq_of_eq_replicate {l : List (List Bool)} {m : Nat} {F : List Bool} (h : l = List.replicate m F) :
    l.length = m := by rw [h, List.length_replicate]

/-- Settles O56: the bound by induction on the deliveries, the listed ends by the loop's cases at each attempt. -/
theorem senderSendsAtMostThree : Obligations.SenderSendsAtMostThree := by
  intro b h h' P n l hj hc hinv h1 h32 hP
  have hG := hinv.validGenerator hc
  have hx := Sending.underWay_start (configured_iff.2 ⟨hj, hc, rfl, rfl⟩)
    (frameString P n b.sender.gen.toNat b.sender.genDeg.toNat)
  obtain ⟨⟨m, hm, hsent⟩, hend⟩ := sendLoop_bounded hG h1 h32 hP h h' hx (by decide) l
  have hlast {resp : ChannelResponse} {res : SendResult} (hres : endOf resp = some res) :=
    sendLoop_last hG h1 h32 hP h h' hx (d := .answers resp) l rfl hres
  obtain ⟨x1, hx1, -, e1⟩ := sendLoop_next hG h1 h32 hP h h' hx (d := .answers (.token .dataError))
    (.answers (.token .dataError) :: .answers (.token .dataError) :: l) rfl (by decide)
  obtain ⟨x2, hx2, -, e2⟩ := sendLoop_next hG h1 h32 hP h h' hx1 (d := .answers (.token .dataError))
    (.answers (.token .dataError) :: l) rfl (by decide)
  obtain ⟨hexh, hthree⟩ := sendLoop_exhausts hG h1 h32 hP h h' hx2 (d := .answers (.token .dataError)) l rfl (by decide)
  rw [← e2, ← e1] at hexh hthree
  obtain ⟨hok, hok1⟩ := hlast (resp := .token .dataSuccess) rfl
  obtain ⟨hcode, hcode1⟩ := hlast (resp := .token .codeError) rfl
  obtain ⟨hchan, hchan1⟩ := hlast (resp := .channelError) rfl
  refine ⟨?_, fun f hf => ?_, hend, hexh, length_eq_of_eq_replicate hthree, hok, length_eq_of_eq_replicate hok1, hcode,
    length_eq_of_eq_replicate hcode1, hchan, length_eq_of_eq_replicate hchan1⟩
  · exact (length_eq_of_eq_replicate hsent).trans_le hm
  · exact List.eq_of_mem_replicate (hsent ▸ hf)

/-! Sender and receiver with one generator (R180). -/

/-- R180: both hosts' blocks, which may be one, are idle and hold the generator g of degree r. -/
def BothConfigured (g : Word) (r : BitVec 5) (b : Blocks) : Prop :=
  Configured g r b.sender ∧ Configured g r b.receiver

theorem BothConfigured.setSender {g : Word} {r : BitVec 5} {b : Blocks} {t : State} (hb : BothConfigured g r b)
    (ht : Configured g r t) : BothConfigured g r (b.setSender t) := by
  cases b with
  | shared s => exact ⟨ht, ht⟩
  | separate s u => exact ⟨ht, hb.2⟩

theorem BothConfigured.setReceiver {g : Word} {r : BitVec 5} {b : Blocks} {t : State} (hb : BothConfigured g r b)
    (ht : Configured g r t) : BothConfigured g r (b.setReceiver t) := by
  cases b with
  | shared s => exact ⟨ht, ht⟩
  | separate s u => exact ⟨hb.1, ht⟩

/-- R182, R183: the receiver's token is the channel's response. -/
theorem deliver_eq {h' : Nat} {str : List Bool} {b : Blocks} {t : Token}
    (ht : (receive h' str b.receiver).2 = some t) :
    deliver h' str b = (b.setReceiver (receive h' str b.receiver).1, some (.token t)) := by
  simp only [deliver, ht, Option.map_some]

section Session

variable {g : Word} {r : BitVec 5} {P n : Nat} (hG : ValidGenerator g.toNat r.toNat) (h1 : 1 ≤ n) (h32 : n ≤ 32)
  (hP : P < 2 ^ n) (h h' : Nat) {x : Sending} (hb : BothConfigured g r x.blocks)
include hG h1 h32 hP hb

theorem sendFrame_bothConfigured : BothConfigured g r (sendFrame h P n x).blocks := by
  obtain ⟨t, ht, hy⟩ := sendFrame_eq hG h1 h32 hP h hb.1
  rw [hy]
  exact hb.setSender ht

variable {k : Nat} (hx : x.UnderWay g r (frameString P n g.toNat r.toNat) k k) (rest : List Delivery)
include hx

/-- R128, R183: a frame that arrives as it was sent ends the sending in SUCCESS. -/
theorem sendLoop_intact :
    (sendLoop 3 h h' P n (.intact :: rest) x).result = some .success ∧
    (sendLoop 3 h h' P n (.intact :: rest) x).sent = List.replicate (k + 1) (frameString P n g.toNat r.toNat) := by
  obtain ⟨-, hrec⟩ := sendFrame_bothConfigured hG h1 h32 hP h hb
  have hlast : (sendFrame h P n x).sent.getLastD [] = frameString P n g.toNat r.toNat := by
    rw [(hx.sendFrame hG h1 h32 hP h).sent, List.replicate_succ', List.getLastD_concat]
  obtain ⟨b, hc⟩ : ∃ b, channelSend h' ((sendFrame h P n x).sent.getLastD []) .intact (sendFrame h P n x).blocks =
      (b, some (.token .dataSuccess)) := by
    rw [hlast]
    exact ⟨_, deliver_eq (receive_frameString hrec h' hG h32 hP)⟩
  exact sendLoop_last hG h1 h32 hP h h' hx rest hc rfl

/-- R182, R183: a rejected string in the frame's place leads to the next attempt, on blocks configured as before. -/
theorem sendLoop_altered {str : List Bool} (hstr : Rejected g.toNat r.toNat str) (hk : k + 1 < 3) :
    ∃ y : Sending, y.UnderWay g r (frameString P n g.toNat r.toNat) (k + 1) (k + 1) ∧ BothConfigured g r y.blocks ∧
      sendLoop 3 h h' P n (.altered str :: rest) x = sendLoop 3 h h' P n rest y := by
  have hboth := sendFrame_bothConfigured hG h1 h32 hP h hb
  obtain ⟨y, hy, hblocks, e⟩ := sendLoop_next hG h1 h32 hP h h' hx (d := .altered str) rest
    (deliver_eq (receive_rejected hboth.2 h' hstr)) hk
  exact ⟨y, hy, hblocks ▸ hboth.setReceiver (hboth.2.receive h' str), e⟩

end Session

/-! Configuring a block (R193). -/

theorem memWrite_genIn_idle {s : State} (hj : s.job = none) (v : Word) :
    memWrite Reg.genIn.offset v s = .next { s with genIn := v } := by
  simp only [memWrite, regAt_offset, guardedWrite_idle hj]

/-- R91, R193: SETGEN of a generator value on an idle block, as a CMD write. -/
theorem memWrite_setgen {s : State} (hj : s.job = none) (hg : 2 ≤ s.genIn.toNat) :
    memWrite Reg.cmd.offset (encode .setgen) s = .next (installGenerator s.genIn (issueClear s)) := by
  rw [memWrite_cmd, commandWrite_of_decode_eq_ok (decode_encode rfl), exec_setgen_installs hj hg]

/-- R193: step (4) passes on a block that holds a generator and reports no error. -/
theorem statusReady_statusWord {s : State} (hc : s.status.codeValid = true) (herr : s.status.err = .noError) :
    statusReady (statusWord s) = true := by
  have hvalid : (statusWord s).getLsbD 1 = s.status.codeValid := statusWord_getLsbD s 1
  rw [statusReady, statusWord_extract_err, herr, hvalid, hc]
  rfl

/-- The block after steps (2) and (3) of R193: GEN_IN written and SETGEN issued by host h. -/
def booted (h : Nat) (g : Word) (s : State) : State :=
  installGenerator g (issueClear (answer h .written { answer h .written s with genIn := g }))

/-- R193: the program of a host that configures an idle block with a value of 2 or more, and reads STATUS. -/
theorem runOps_bootOps {g : Word} {s : State} (hj : s.job = none) (hg : 2 ≤ g.toNat) (h : Nat) :
    runOps h (bootOps g) s =
      { todo := [], temps := [(0, statusWord (booted h g s))], error := none,
        block := answer h (.data (statusWord (booted h g s))) (booted h g s) } := by
  have hwrite : (HostRun.start (bootOps g) s).own h =
      HostRun.start (bootOps g).tail { answer h .written s with genIn := g } :=
    HostRun.own_wr (off := Reg.genIn.offset) h rfl (by decide) rfl rfl
      (memWrite_genIn_idle (s := answer h .written s) hj g)
  have hsetgen : (HostRun.start (bootOps g).tail { answer h .written s with genIn := g }).own h =
      HostRun.start [.rd Reg.status.offset 0] (booted h g s) :=
    HostRun.own_wr (off := Reg.cmd.offset) h rfl (by decide) rfl rfl
      (memWrite_setgen (s := answer h .written { answer h .written s with genIn := g }) hj hg)
  have hplay : runOps h (bootOps g) s = (((HostRun.start (bootOps g) s).own h).own h).own h := rfl
  rw [hplay, hwrite, hsetgen,
    HostRun.own_rd (off := Reg.status.offset) (t := 0) (rest := []) h rfl (by decide) rfl, HostRun.start, memRead_status]
  rfl

/-- R91, R193: an idle block configured with a value of 2 or more passes the check and holds it. -/
theorem configure_idle {p : Party} {s : State} (hj : s.job = none) (hg : 2 ≤ p.code.toNat) :
    (configure p s).2 = true ∧ Configured p.code (BitVec.ofNat 5 (bitlen p.code.toNat - 1)) (configure p s).1 := by
  have hready : statusReady (statusWord (booted p.host p.code s)) = true := statusReady_statusWord rfl rfl
  rw [configure, runOps_bootOps hj hg]
  exact ⟨hready, hj, rfl⟩

/-- R180: both hosts configure their idle blocks, or their one block, with the same value. -/
theorem bothConfigured_configure {g : Word} {b : Blocks} (hs : b.sender.job = none) (hr : b.receiver.job = none)
    (hg : 2 ≤ g.toNat) (h h' : Nat) :
    BothConfigured g (BitVec.ofNat 5 (bitlen g.toNat - 1))
      ((b.setSender (configure { host := h, code := g } b.sender).1).setReceiver
        (configure { host := h', code := g }
          (b.setSender (configure { host := h, code := g } b.sender).1).receiver).1) := by
  obtain ⟨-, hsender⟩ := configure_idle (p := { host := h, code := g }) hs hg
  cases b with
  | shared s =>
    obtain ⟨-, hboth⟩ := configure_idle (p := { host := h', code := g }) hsender.job_eq_none hg
    exact ⟨hboth, hboth⟩
  | separate s u =>
    obtain ⟨-, hreceiver⟩ := configure_idle (p := { host := h', code := g }) hr hg
    exact ⟨hsender, hreceiver⟩

/-- R180: a session of hosts that configure one value sends on blocks that both hold it. -/
theorem exists_session_eq {g : Word} {b : Blocks} (hs : b.sender.job = none) (hr : b.receiver.job = none)
    (hg : 2 ≤ g.toNat) (h h' P n : Nat) :
    ∃ (r : BitVec 5) (ready : Blocks), r.toNat = bitlen g.toNat - 1 ∧ BothConfigured g r ready ∧
      ∀ ds, session 3 { host := h, code := g } { host := h', code := g } P n ds b =
        sendLoop 3 h h' P n ds (Sending.start ready) := by
  obtain ⟨hcheck, -⟩ := configure_idle (p := { host := h, code := g }) hs hg
  refine ⟨_, _, toNat_ofNat_bitlen_pred hg, bothConfigured_configure hs hr hg h h', fun ds => ?_⟩
  rw [session, hcheck]
  rfl

/-- Settles O58: the receiver accepts the frame string the sender's block writes; and in a session both blocks hold the
generator, so that an intact frame ends it and a rejected string leads to one more attempt. -/
theorem sentFrameIsAccepted : Obligations.SentFrameIsAccepted := by
  refine ⟨fun s s' h h' P n hj hj' hc hc' hinv hgen hdeg h1 h32 hP => ?_,
    fun b h h' P n g str l hs hr hg h1 h32 hP => ?_⟩
  · have hG := hinv.validGenerator hc
    obtain ⟨b, hrun, -, hout⟩ := runOps_encOps hG h1 h32 hP h (configured_iff.2 ⟨hj, hc, rfl, rfl⟩)
    rw [hrun, hout]
    exact receive_frameString (configured_iff.2 ⟨hj', hc', hgen.symm, hdeg.symm⟩) h' hG h32 hP
  · obtain ⟨r, ready, hdeg, hboth, hsession⟩ := exists_session_eq hs hr hg h h' P n
    have hG : ValidGenerator g.toNat r.toNat := hdeg.symm ▸ validGenerator_bitlen_pred hg
    have hx := Sending.underWay_start hboth.1 (frameString P n g.toNat r.toNat)
    simp only [hsession, ← hdeg]
    refine ⟨sendLoop_intact hG h1 h32 hP h h' hboth hx l, fun hstr => ?_⟩
    obtain ⟨y, hy, hyboth, hnext⟩ := sendLoop_altered hG h1 h32 hP h h' hboth hx (.intact :: l) hstr (by decide)
    rw [hnext]
    exact sendLoop_intact hG h1 h32 hP h h' hyboth hy l

end Sys2Proof.Machine
